-- ==== Sys2Proof/Word.lean ====
section
/-! DEFINITION. The word and byte of the part, and its saturating counters. -/

namespace Sys2Proof

/-- A word of the static RAM and of the BCB: 4 bytes (00_scope, Addresses, words and offsets). -/
abbrev Word := BitVec 32

/-- The smallest addressable unit. -/
abbrev Byte := BitVec 8

/-- A counter whose rule does not state that it wraps stays at its largest value (00_scope, Counters). -/
def satInc {w : Nat} (x : BitVec w) : BitVec w :=
  if x = BitVec.allOnes w then x else x + 1

/-- A number laid into `width` bits from bit `lo` up; what does not fit is cut off. -/
def fieldAt (lo width v : Nat) : Nat :=
  (v % 2 ^ width) * 2 ^ lo

/-- The number in bits `lo` to `lo + width - 1` of a word. -/
def bitsOf (w : Word) (lo width : Nat) : Nat :=
  w.toNat / 2 ^ lo % 2 ^ width

/-- One bit as a number. -/
def bitNat (b : Bool) : Nat :=
  if b then 1 else 0

end Sys2Proof
end

