-- ==== Sys2Proof/Syntax.lean ====
section
/-! DEFINITION. The commands of the part: one constructor for each row of spec/opcode_table.json. -/

namespace Sys2Proof

/-- The two bus ports; a master and an interrupt line are called by their port's number (00_scope, Names). -/
inductive Port where
  | port0
  | port1
  deriving DecidableEq, Repr

/-- Banks B0 to B3. -/
abbrev BankId := Fin 4

/-- Channels 0 to 15. -/
abbrev ChanId := Fin 16

/-- A port access as its master presents it (1.1): direction, address and form. The size and the burst
length are as wide as the fields that record them (12.2, port capture), so that every malformed form
R1 names can be presented. Write data is one word for each beat; for 1 or 2 bytes it is right-justified. -/
structure Access where
  write : Bool
  addr : BitVec 24
  size : Fin 8
  burst : Option (Fin 16)
  locked : Bool
  data : List Word
  deriving DecidableEq, Repr

/-- The commands. A command with a port, bank or channel operand names whose step it is. -/
inductive Instr where
  /-- PIN_RESET (R170). -/
  | pinReset
  /-- PIN_RESET_RELEASE (R170). -/
  | pinResetRelease
  /-- MICROSECOND_TICK (R101). -/
  | microsecondTick
  /-- MILLISECOND_ADVANCE (R102). -/
  | millisecondAdvance
  /-- PORT_ACCESS (R2): the master of port `p` presents `a`. -/
  | portAccess (p : Port) (a : Access)
  /-- WRITER_DATA_WRITE (R59): port `p`'s access, handed to the exchange engine, is taken at its channel. -/
  | writerDataWrite (p : Port)
  /-- WRITER_DATA_READ (R65). -/
  | writerDataRead (p : Port)
  /-- WRITER_TAG_READ (R66). -/
  | writerTagRead (p : Port)
  /-- COMMIT (R69). -/
  | commit (p : Port)
  /-- DISCARD (R68). -/
  | discard (p : Port)
  /-- READER_TAG_READ (R74). -/
  | readerTagRead (p : Port)
  /-- READER_DATA_READ (R76). -/
  | readerDataRead (p : Port)
  /-- RELEASE (R78). -/
  | release (p : Port)
  /-- ARBITER_GRANT (R121). -/
  | arbiterGrant
  /-- PORT_OPERATION_END (R115). -/
  | portOperationEnd (p : Port)
  /-- READY_TIMEOUT (R125): the bank gave ready for as many word accesses of the operation as `waits` is long,
  each after that many microsecond ticks of its own ready timer, and not for the next. -/
  | readyTimeout (waits : List Nat)
  /-- HOLD_EXPIRED (R9). -/
  | holdExpired (p : Port)
  /-- FRESHNESS_EXPIRY (R106). -/
  | freshnessExpiry (c : ChanId)
  /-- COPY_TAKE_HEAD (R87). -/
  | copyTakeHead
  /-- COPY_OPERATION_END (R88). -/
  | copyOperationEnd
  /-- COPY_COMPLETION (R92). -/
  | copyCompletion
  /-- COPY_FAILURE (R94). -/
  | copyFailure
  /-- COPY_ABORT_NOTICE (R95). -/
  | copyAbortNotice
  /-- MIRROR_WRITE_REQUEST (R159). -/
  | mirrorWriteRequest
  /-- MIRROR_WRITE_END (R159). -/
  | mirrorWriteEnd
  /-- SCRUB_INTERVAL_EXPIRY (R139). -/
  | scrubIntervalExpiry
  /-- SCRUB_READ_END (R138). -/
  | scrubReadEnd
  /-- TIMEOUT_REPORT (R146). -/
  | timeoutReport (b : BankId)
  /-- STORM (R147). -/
  | storm (b : BankId)
  /-- RETRY_TIMER_EXPIRY (R148). -/
  | retryTimerExpiry (b : BankId)
  /-- PROBE_END (R149). -/
  | probeEnd (b : BankId)
  /-- LEAVING_NOTICE (R47). -/
  | leavingNotice (c : ChanId)
  /-- ENTERING_NOTICE (R52). -/
  | enteringNotice (c : ChanId)
  /-- CHANNEL_ENABLE (R41): the executor takes the oldest PENDING command, of this code; so for the next fifteen. -/
  | channelEnable
  /-- CHANNEL_DISABLE (R42). -/
  | channelDisable
  /-- CHANNEL_RESET (R43). -/
  | channelReset
  /-- CHANNEL_LOAD (R39). -/
  | channelLoad
  /-- CHANNEL_UNLOAD (R40). -/
  | channelUnload
  /-- SLOT_RETIRE (R38). -/
  | slotRetire
  /-- SLOT_RESTORE (R38). -/
  | slotRestore
  /-- BANK_REINSTATE (R153). -/
  | bankReinstate
  /-- BANK_CLEAR_RETRIES (R154). -/
  | bankClearRetries
  /-- BANK_FENCE (R152). -/
  | bankFence
  /-- SCRUB_START (R142). -/
  | scrubStart
  /-- SCRUB_STOP (R142). -/
  | scrubStop
  /-- COUNTERS_CLEAR (R167). -/
  | countersClear
  /-- TIME_ZERO (R104). -/
  | timeZero
  /-- RELOAD (R169). -/
  | reload
  /-- GLOBAL_MASK_WRITE (R162): the handover of port `p`'s write is taken; so for the next five. -/
  | globalMaskWrite (p : Port)
  /-- CHANNEL_MASK_WRITE (R162). -/
  | channelMaskWrite (p : Port)
  /-- GLOBAL_ACK (R163). -/
  | globalAck (p : Port)
  /-- CHANNEL_ACK (R163). -/
  | channelAck (p : Port)
  /-- CAPTURE_ACK (R164). -/
  | captureAck (p : Port)
  /-- STAGING_WRITE (R168). -/
  | stagingWrite (p : Port)
  /-- IMAGE_READ_END (R172): the bytes the configuration memory delivered, first byte first; beyond their
  end it reads 0xFF (R171). -/
  | imageReadEnd (bytes : List Byte)
  /-- APPLY_IMAGE (R174). -/
  | applyImage
  /-- FALLBACK_APPLY (R175). -/
  | fallbackApply
  /-- INIT_WRITE_END (R127). -/
  | initWriteEnd
  /-- UNLISTED_COMMAND_CODE (R166). -/
  | unlistedCommandCode
  /-- READER_DATA_WRITE (R57). -/
  | readerDataWrite (p : Port)
  deriving DecidableEq, Repr

end Sys2Proof
end

