-- ==== Sys2Proof/Config.lean ====
section
/-! DEFINITION. What the manual leaves open: free values without a body, so that no proof can see one
(log entries 6 and 7). -/

namespace Sys2Proof

/-- How many word accesses of an operation had taken effect when pin reset cut it off (R129 gives "old or
new" for the word being written and does not say how far the operation had got). The argument is the
model's count of free values used so far (log 6). -/
opaque Config.accessesBeforeCut : Nat → Nat

/-- The phase field of the scrub status record while the scrubber is STOPPED, when it is in none of the
four phases (12.2, R137; log 7). -/
opaque Config.stoppedScrubPhase : BitVec 2

/-- The position field of the scrub status record while the position is none and bit 31 says so (12.2;
log 7). -/
opaque Config.absentScrubPosition : BitVec 24

end Sys2Proof
end

