-- ==== Sys2Proof/Machine/State.lean ====
section
/-! DEFINITION. The state of the part as plain data, and the state right after the release of pin reset.
INVENTORY.md lists each field with its rule and reset value. -/

namespace Sys2Proof.Machine

open Sys2Proof

/-! ## Small shapes -/

/-- Two like things, one for each port or interrupt line. -/
structure Pair (α : Type) where
  first : α
  second : α
  deriving DecidableEq, Repr

/-- A timer served by the time base, kept as its remaining time (R103). At zero it is due: its expiry
has been delivered and not yet taken by its owner. -/
inductive Timer where
  | stopped
  | running (left : Nat)
  | due
  deriving DecidableEq, Repr

/-- LOADING, RUN or FALLBACK (00_scope, Device states). -/
inductive Device where
  | loading
  | run
  | fallback
  deriving DecidableEq, Repr

/-- The cause of the last LOADING (R170). -/
inductive ResetCause where
  | pin
  | reload
  deriving DecidableEq, Repr

/-- The outcome of the last load (R172, R173, R176). -/
inductive LoadOutcome where
  | ok
  | signature
  | format
  | length
  | crc
  | badField
  | bankLayout
  | bcbPlacement
  | regionRange
  | channel
  deriving DecidableEq, Repr

/-! ## Answers (1.2, 1.5) -/

/-- The fault codes of 1.5. -/
inductive FaultCode where
  | unmapped
  | denied
  | reserved
  | channelOff
  | form
  | role
  | blocked
  | uncorrectable
  | poisoned
  | unavailable
  | timeout
  | abandoned
  | holdExpired
  deriving DecidableEq, Repr

/-- An answer: the data of the beats answered OKAY, and the fault that ended the access, if one did.
A write answered OKAY has no data and no fault. -/
structure Answer where
  data : List Word
  fault : Option FaultCode
  deriving DecidableEq, Repr

/-- A port fault capture's record (R164). -/
structure PortFault where
  addr : BitVec 24
  write : Bool
  size : Fin 8
  burst : Nat
  locked : Bool
  code : FaultCode
  time : BitVec 32
  deriving DecidableEq, Repr

/-- A one-record store with its overflow count (R136, R164). -/
structure Capture (α : Type) where
  record : Option α
  overflow : BitVec 8
  deriving DecidableEq, Repr

/-! ## Memory operations of the ports (7.2) -/

/-- What the end of a port's operation has to do besides the answer. -/
inductive OpTag where
  /-- a plain or redirected operation -/
  | plain
  /-- a locked read of the word at this address: OKAY opens the lock (R119) -/
  | lockedRead (addr : Nat)
  /-- the write half of a locked pair: its end closes the lock (R119) -/
  | writeHalf
  /-- an accepted BCB write of the word at this offset: its end makes the handover (R17) -/
  | bcb (off : Nat)
  /-- a commit's word 0 write into this slot (R73) -/
  | commitWord (c : ChanId) (slot : Fin 8)
  deriving DecidableEq, Repr

/-- A port's memory operation with its bank and physical word addresses (R114, R115). -/
structure PortOp where
  bank : BankId
  addrs : List Nat
  write : Bool
  size : Nat
  lane : Nat
  data : List Word
  tag : OpTag
  deriving DecidableEq, Repr

/-- The phase of a port's access record (R2), with the access. WAITING has four forms here, by what it
waits for; `handover` is the moment between the end of a BCB write and its answer (R17). -/
inductive PortPhase where
  | idle
  | held (a : Access)
  | atChannel (a : Access) (c : ChanId) (off : Nat)
  | waitingCommit (a : Access) (c : ChanId)
  | keptBack (a : Access) (op : PortOp) (c : ChanId) (slot : Fin 8)
  | atArbiter (a : Access) (op : PortOp)
  | granted (a : Access) (op : PortOp)
  | handover (a : Access) (off : Nat) (value : Word) (ending : Option FaultCode)
  deriving DecidableEq, Repr

/-- One bus port. -/
structure PortRecord where
  phase : PortPhase
  hold : Timer
  holdLimit : BitVec 16
  answer : Option Answer
  faultCount : BitVec 8
  capture : Capture PortFault
  deriving DecidableEq, Repr

/-! ## Regions and banks -/

/-- A permission (R22). -/
inductive Permission where
  | none
  | read
  | readWrite
  deriving DecidableEq, Repr

/-- A region table entry (R22); base and limit in units of 256 bytes. -/
structure Region where
  enabled : Bool
  base : BitVec 16
  limit : BitVec 16
  perms : Pair Permission
  deriving DecidableEq, Repr

/-- Retry modes (R113). -/
inductive RetryMode where
  | off
  | limited
  | unlimited
  deriving DecidableEq, Repr

/-- A configured bank's settings (R113). `readyTimeout` is none when ready control is off. -/
structure BankConfig where
  base : Nat
  size : Nat
  checkCode : Bool
  initAtStart : Bool
  readWaits : BitVec 4
  writeWaits : BitVec 4
  readyTimeout : Option Nat
  retryMode : RetryMode
  retryPeriod : Nat
  stormThreshold : BitVec 8
  probeOffset : Nat
  deriving DecidableEq, Repr

/-- Service states (R144). -/
inductive Service where
  | unused
  | inService
  | retryWait
  | probing
  | fenced
  deriving DecidableEq, Repr

/-- Why a bank last left service (R144). -/
inductive FaultCause where
  | none
  | timeout
  | storm
  | command
  deriving DecidableEq, Repr

/-- The state of a bank's one probe read (R144); `timedOut` is an IN_FLIGHT probe whose read has ended in
TIMEOUT and whose outcome the unit has not yet taken. -/
inductive Probe where
  | none
  | waiting
  | inFlight
  | timedOut
  | discarded
  deriving DecidableEq, Repr

/-- One bank: settings, health record (R144) and UE count (R135). -/
structure Bank where
  config : Option BankConfig
  service : Service
  retries : Fin 16
  rfull : Bool
  cause : FaultCause
  faultTime : Option (BitVec 32)
  retryTimer : Timer
  probe : Probe
  ueCount : BitVec 8
  deriving DecidableEq, Repr

/-! ## Channels -/

/-- Rotation disciplines (R29). -/
inductive Mode where
  | latest
  | queue
  deriving DecidableEq, Repr

/-- Stale policies (R29). -/
inductive StalePolicy where
  | hold
  | substitute
  deriving DecidableEq, Repr

/-- A channel's configuration (R29). -/
structure ChannelConfig where
  windowBase : Nat
  len : Nat
  mode : Mode
  depth : Nat
  writer : Port
  reader : Port
  slotBase : Nat
  carry : Bool
  freshness : Nat
  policy : StalePolicy
  substitute : Option Nat
  enableAtStart : Bool
  deriving DecidableEq, Repr

/-- States of a configured channel (3.3). -/
inductive ChannelState where
  | off
  | live
  | stale
  deriving DecidableEq, Repr

/-- What the reader holds (R34). -/
inductive Held where
  | none
  | slot (i : Fin 8)
  | substitute
  deriving DecidableEq, Repr

/-- A channel's copy state (R34). -/
inductive ChannelCopy where
  | none
  | queued
  | copying (next : Nat)
  deriving DecidableEq, Repr

/-- Slot states (R35). -/
inductive SlotState where
  | free
  | filling
  | committed
  deriving DecidableEq, Repr

/-- A slot record (R35). The held flag is the channel's held field naming the slot. -/
structure Slot where
  state : SlotState
  frame : Option (BitVec 32)
  commitTime : Option (BitVec 32)
  retired : Bool
  written : List Nat
  copySource : Bool
  deriving DecidableEq, Repr

/-- A service notice sent to a channel (R145, R151). -/
inductive Notice where
  | leaving
  | entering
  deriving DecidableEq, Repr

/-- A configured channel with its run-time state (R34). Slot records past the depth have no meaning and
are never looked at. `bankUp` is the service view of the slot area's bank as last taken at this channel
(R37), and `notices` the notices sent and not yet taken, oldest first (R44). -/
structure Channel where
  config : ChannelConfig
  state : ChannelState
  frames : BitVec 32
  newest : Option (Fin 8)
  committed : List (Fin 8)
  held : Held
  filling : Option (Fin 8)
  copy : ChannelCopy
  waiting : Option Word
  deadline : Timer
  lastCommit : Option (BitVec 32)
  dropped : BitVec 16
  lost : BitVec 16
  blocked : BitVec 16
  empty : BitVec 16
  slots : Vector Slot 8
  bankUp : Bool
  notices : List Notice
  deriving DecidableEq, Repr

/-! ## Copy engine (5.1) -/

/-- The operation of the current copy in flight (R85): requested, granted, or ended in TIMEOUT with its
end not yet taken by the engine. -/
inductive CopyFlight where
  | none
  | readWaiting
  | reading
  | writeWaiting
  | writing
  | timedOut
  deriving DecidableEq, Repr

/-- The value read for the next offset with its mark (R85, R90). -/
structure CopiedWord where
  value : Word
  poisoned : Bool
  deriving DecidableEq, Repr

/-- The current copy (R85), with the physical addresses its operations carry (R88). -/
structure CopyJob where
  channel : ChanId
  source : Fin 8
  target : Fin 8
  next : Nat
  flight : CopyFlight
  word : Option CopiedWord
  len : Nat
  bank : BankId
  sourceBase : Nat
  targetBase : Nat
  deriving DecidableEq, Repr

/-- How the engine reports a copy's end to its channel (R92, R94). -/
inductive CopyReport where
  | completion
  | failure
  deriving DecidableEq, Repr

/-- The engine's states with the current copy (R85). -/
inductive EngineState where
  | idle
  | active (j : CopyJob)
  | ending (j : CopyJob) (r : CopyReport)
  | draining (j : CopyJob)
  deriving DecidableEq, Repr

/-- The copy engine (R85); `abortNotice` is a notice of R95 sent and not yet received. -/
structure CopyEngine where
  queue : List ChanId
  state : EngineState
  abortNotice : Bool
  deriving DecidableEq, Repr

/-! ## Memory controller (7.3) -/

/-- The operation that holds the memory port. The port's and the copy engine's operations stand in
their own records. -/
inductive BusyOp where
  | port (p : Port)
  | copy
  | mirror
  | scrub (b : BankId) (addr : Nat)
  | probe (b : BankId) (addr : Nat)
  | initWrite (b : BankId) (addr : Nat)
  deriving DecidableEq, Repr

/-- The memory port in use: the operation and the microsecond ticks since its grant, from which the ready timer
of each of its word accesses is told (R125, log 9). -/
structure Busy where
  op : BusyOp
  waited : Nat
  deriving DecidableEq, Repr

/-- An open lock (R119): the port and the word's address. -/
structure Lock where
  port : Port
  addr : Nat
  deriving DecidableEq, Repr

/-- The arbiter (7.3). The waiting requests are the requesters' own states. -/
structure Arbiter where
  busy : Option Busy
  lock : Option Lock
  lastPort : Port
  copyPass : Nat
  mirrorPass : Nat
  deriving DecidableEq, Repr

/-! ## Check unit and scrubber -/

/-- The device ECC counters (R134). -/
structure EccCounts where
  corrected : BitVec 16
  uncorrectable : BitVec 16
  poisonReads : BitVec 16
  deriving DecidableEq, Repr

/-- Who made a read access: the sources of the memory error capture (R134, R136). -/
inductive Source where
  | port0
  | port1
  | copy
  | scrub
  | probe
  deriving DecidableEq, Repr

/-- The memory error capture's record (R136). -/
structure MemFault where
  addr : Nat
  bank : BankId
  source : Source
  time : BitVec 32
  deriving DecidableEq, Repr

/-- Phases of a RUNNING scrubber (R137). -/
inductive ScrubPhase where
  | pacing
  | requesting
  | reading
  | noBank
  deriving DecidableEq, Repr

/-- The scrubber's state (R137). -/
inductive ScrubState where
  | stopped
  | running (ph : ScrubPhase)
  deriving DecidableEq, Repr

/-- The scrubber (R137); `timedOut` is the address of a scrub read that ended in TIMEOUT and whose end
the scrubber has not yet taken (R141). -/
structure Scrubber where
  state : ScrubState
  position : Option Nat
  interval : BitVec 16
  timer : Timer
  passes : BitVec 16
  timedOut : Option Nat
  deriving DecidableEq, Repr

/-! ## Control block unit -/

/-- Stages of an event flag (R161). -/
inductive Stage where
  | clear
  | pending
  | posted
  deriving DecidableEq, Repr

/-- A mirror write that holds the memory port (R159): offset, physical address, value, and the bits of
the flags that were PENDING at the grant and have not been cleared since (R161). -/
structure MirrorWrite where
  off : Nat
  bank : BankId
  addr : Nat
  value : Word
  carried : List Nat
  deriving DecidableEq, Repr

/-- The mirror writer's one request (R159). -/
inductive MirrorRequest where
  | none
  | waiting (off : Nat)
  | inFlight (w : MirrorWrite)
  | timedOut (off : Nat)
  deriving DecidableEq, Repr

/-- The mirror writer (R158): the dirty set in ascending order, the last-served offset, the request. -/
structure Mirror where
  dirty : List Nat
  last : Nat
  request : MirrorRequest
  deriving DecidableEq, Repr

/-- A port's command state (R165); a PENDING command carries its order of acceptance. -/
inductive CommandState where
  | idle
  | pending (w : Word) (stamp : Nat)
  | executing (w : Word)
  deriving DecidableEq, Repr

/-- Outcomes in the main part of a result word (10.6). -/
inductive CommandOutcome where
  | none
  | pending
  | done
  | badArgument
  | wrongState
  deriving DecidableEq, Repr

/-- A port's command record: its state and its result word, whose refusal part is none or BUSY with the
refused code (10.6, R165). -/
structure PortCommand where
  state : CommandState
  echo : Word
  outcome : CommandOutcome
  refused : Option (BitVec 8)
  deriving DecidableEq, Repr

/-! ## Loader (chapter 11) -/

/-- The settings of an accepted image (R171). -/
structure Image where
  clockMHz : Nat
  holdLimits : Pair (BitVec 16)
  bcbBase : Nat
  defaultAccess : Pair Permission
  scrubInterval : BitVec 16
  scrubAutoStart : Bool
  banks : Vector (Option BankConfig) 4
  regions : Vector Region 8
  channels : Vector (Option ChannelConfig) 16
  deriving DecidableEq, Repr

/-- Where the loader stands: reading; judged and waiting for the memory port to be free; writing a bank to
zero; its write ended in TIMEOUT and the end not yet taken. -/
inductive LoaderPhase where
  | idle
  | reading
  | accepted (img : Image)
  | refused (why : LoadOutcome) (c : ChanId)
  | initWrite (b : BankId)
  | initTimedOut (b : BankId)
  deriving DecidableEq, Repr

/-- The configuration loader. From the moment the settings take effect it keeps what waits for the end of LOADING:
scrub auto-start, and the TIMEOUTs of initialization writes (R127). -/
structure Loader where
  phase : LoaderPhase
  wordsRead : Nat
  scrubAutoStart : Bool
  heldTimeouts : List BankId
  deriving DecidableEq, Repr

/-! ## Faults, refusals, the state -/

/-- Reasons for which a step ends in a fault: none. Every fault the spec names is an answer to a port, a
bank state or a flag, and the part goes on (01 1.5, 09); safe, since no step is cut short. -/
inductive Fault where
  deriving DecidableEq, Repr

/-- Reasons for which a step is refused. -/
inductive Refusal where
  /-- Raised by exec's arm of a command that has no meaning yet; safe: nothing follows from a refused step. -/
  | notModelled (mnemonic : String)
  deriving DecidableEq, Repr

/-- The state of the part, with the queue of commands that wait. -/
structure State where
  pinAsserted : Bool
  device : Device
  resetCause : ResetCause
  loadOutcome : LoadOutcome
  failedChannel : ChanId
  loader : Loader
  clockMHz : Nat
  msCount : BitVec 32
  usInMs : Nat
  ports : Pair PortRecord
  defaultAccess : Pair Permission
  bcbBase : Nat
  regions : Vector Region 8
  banks : Vector Bank 4
  timeoutReports : List BankId
  stormReports : List BankId
  channels : Vector (Option Channel) 16
  copy : CopyEngine
  arbiter : Arbiter
  ecc : EccCounts
  memCapture : Capture MemFault
  scrub : Scrubber
  globalFlags : Pair (Vector Stage 9)
  channelFlags : Vector (Vector Stage 7) 16
  globalMask : Pair Word
  channelMask : Pair Word
  mirror : Mirror
  commands : Pair PortCommand
  nextStamp : Nat
  staging : Pair (Vector Word 16)
  ram : List (Nat × BitVec 8)
  lanes : List (Nat × BitVec 7)
  freeCount : Nat
  pending : List Instr
  deriving DecidableEq, Repr

/-! ## Reset -/

/-- A port after pin reset: IDLE, no timer, 10,000 µs limit (R2, R8, R11, R12, R164). -/
def PortRecord.reset : PortRecord where
  phase := .idle
  hold := .stopped
  holdLimit := 10000
  answer := none
  faultCount := 0
  capture := ⟨none, 0⟩

/-- The loader in a phase with nothing read and no image's settings taken (log 4). -/
def Loader.fresh (ph : LoaderPhase) : Loader :=
  ⟨ph, 0, false, []⟩

/-- A region after pin reset: disabled (R22); the other fields have no effect (log 4). -/
def Region.reset : Region :=
  ⟨false, 0, 0, ⟨.none, .none⟩⟩

/-- A bank after pin reset: not configured, UNUSED (R129, R144). -/
def Bank.reset : Bank where
  config := none
  service := .unused
  retries := 0
  rfull := false
  cause := .none
  faultTime := none
  retryTimer := .stopped
  probe := .none
  ueCount := 0

/-- A port's command record with both parts of the result word NONE (10.6). -/
def PortCommand.reset : PortCommand :=
  ⟨.idle, 0, .none, none⟩

/-- The part right after the release of pin reset: LOADING with cause PIN, the loader reading (R170). The values the
spec gives for the end of LOADING only (the last-served offset, the flag stages, the masks, the results, the counts, the
port captures and others) are the model's choice here, as are those it gives nowhere (log 4, log 5). -/
def State.reset : State where
  pinAsserted := false
  device := .loading
  resetCause := .pin
  loadOutcome := .ok
  failedChannel := 0
  loader := .fresh .reading
  clockMHz := 200
  msCount := 0
  usInMs := 0
  ports := ⟨PortRecord.reset, PortRecord.reset⟩
  defaultAccess := ⟨.none, .none⟩
  bcbBase := 0
  regions := Vector.replicate 8 Region.reset
  banks := Vector.replicate 4 Bank.reset
  timeoutReports := []
  stormReports := []
  channels := Vector.replicate 16 none
  copy := ⟨[], .idle, false⟩
  arbiter := ⟨none, none, .port1, 0, 0⟩
  ecc := ⟨0, 0, 0⟩
  memCapture := ⟨none, 0⟩
  scrub := ⟨.stopped, none, 0, .stopped, 0, none⟩
  globalFlags := ⟨Vector.replicate 9 .clear, Vector.replicate 9 .clear⟩
  channelFlags := Vector.replicate 16 (Vector.replicate 7 .clear)
  globalMask := ⟨0, 0⟩
  channelMask := ⟨0, 0⟩
  mirror := ⟨[], 1023, .none⟩
  commands := ⟨PortCommand.reset, PortCommand.reset⟩
  nextStamp := 0
  staging := ⟨Vector.replicate 16 0, Vector.replicate 16 0⟩
  ram := []
  lanes := []
  freeCount := 0
  pending := []

end Sys2Proof.Machine
end

