-- ==== Sys2Proof/Machine/Operands.lean ====
section
/-! DEFINITION. Operand forms: sparse memory, byte lanes, the check code, access forms, timers, and the
small functions over ports, slots and BCB offsets that the steps share. -/

namespace Sys2Proof.Machine

open Sys2Proof

/-! ## Pairs and ports -/

/-- The other port. -/
def otherPort : Port → Port
  | .port0 => .port1
  | .port1 => .port0

/-- A port's number. -/
def portNat : Port → Nat
  | .port0 => 0
  | .port1 => 1

def Pair.get {α : Type} (x : Pair α) : Port → α
  | .port0 => x.first
  | .port1 => x.second

def Pair.set {α : Type} (x : Pair α) (p : Port) (v : α) : Pair α :=
  match p with
  | .port0 => { x with first := v }
  | .port1 => { x with second := v }

/-- The source a port's read counts under (R134). -/
def portSource : Port → Source
  | .port0 => .port0
  | .port1 => .port1

/-! ## Timers (R103) -/

/-- A timer started with a duration; a duration of 0 is due at once. -/
def startTimer (n : Nat) : Timer :=
  if n = 0 then .due else .running n

/-- A timer whose duration 0 means that it is never started (R9, R105). -/
def startUnlessZero (n : Nat) : Timer :=
  if n = 0 then .stopped else .running n

/-- One tick or one advance: a running timer loses one and is due at zero. -/
def tickTimer : Timer → Timer
  | .running n => if n ≤ 1 then .due else .running (n - 1)
  | .stopped => .stopped
  | .due => .due

/-- Whether the ready timer of a word access has run out `waited` ticks after the operation's grant, under a timeout
of `t`. The timer is started anew for each word access (R125): the accesses before this one took `waits` ticks
each, none of them longer than the timeout. -/
def readyExpired (t : Nat) (waits : List Nat) (waited : Nat) : Bool :=
  waits.all (fun x => decide (x ≤ t)) && decide (waits.sum + t ≤ waited)

/-! ## Sparse memory in canonical form

Keys rise strictly and no entry holds 0, which is what an unlisted key reads as (log 5). -/

/-- The value at a key; an unlisted key reads as 0. -/
def cellRead {w : Nat} : List (Nat × BitVec w) → Nat → BitVec w
  | [], _ => 0
  | (k, v) :: rest, a => if k = a then v else cellRead rest a

/-- The canonical form. -/
def Memory.wf {w : Nat} : List (Nat × BitVec w) → Bool
  | [] => true
  | (k, v) :: rest => v != 0 && rest.all (fun e => decide (k < e.1)) && Memory.wf rest

/-- Writing keeps the canonical form; writing 0 removes the entry. -/
def cellWrite {w : Nat} : List (Nat × BitVec w) → Nat → BitVec w → List (Nat × BitVec w)
  | [], a, x => if x = 0 then [] else [(a, x)]
  | (k, v) :: rest, a, x =>
    if a < k then (if x = 0 then (k, v) :: rest else (a, x) :: (k, v) :: rest)
    else if a = k then (if x = 0 then rest else (a, x) :: rest)
    else (k, v) :: cellWrite rest a x

/-! ## Words and byte lanes (00_scope: little-endian) -/

/-- Byte `i` of a word; byte 0 is the least significant. -/
def byteOf (w : Word) (i : Nat) : Byte :=
  BitVec.ofNat 8 (w.toNat / 2 ^ (8 * i))

/-- The word of four bytes, lowest address first. -/
def wordOfBytes (b0 b1 b2 b3 : Byte) : Word :=
  BitVec.ofNat 32 (b0.toNat + b1.toNat * 2 ^ 8 + b2.toNat * 2 ^ 16 + b3.toNat * 2 ^ 24)

/-- The word at a word address. -/
def wordRead (m : List (Nat × BitVec 8)) (a : Nat) : Word :=
  wordOfBytes (cellRead m a) (cellRead m (a + 1)) (cellRead m (a + 2)) (cellRead m (a + 3))

/-- Storing a word at a word address. -/
def wordWrite (m : List (Nat × BitVec 8)) (a : Nat) (v : Word) : List (Nat × BitVec 8) :=
  cellWrite (cellWrite (cellWrite (cellWrite m a (byteOf v 0)) (a + 1) (byteOf v 1)) (a + 2) (byteOf v 2))
    (a + 3) (byteOf v 3)

/-- The mask of the bits of an access of `size` bytes, right-justified. -/
def sizeMask (size : Nat) : Word :=
  if size = 1 then 0xFF else if size = 2 then 0xFFFF else 0xFFFFFFFF

/-- What a read of `size` bytes at byte position `lane` delivers: the addressed bytes, the one at the
lowest address least significant (R4), right-justified with zeros above (log 15). -/
def laneRead (w : Word) (lane size : Nat) : Word :=
  (w >>> (8 * lane)) &&& sizeMask size

/-- The merge of R117: the addressed bytes from the write, the others from the word. -/
def laneMerge (old new : Word) (lane size : Nat) : Word :=
  (old &&& ~~~(sizeMask size <<< (8 * lane))) ||| ((new &&& sizeMask size) <<< (8 * lane))

/-! ## The check code (R130) -/

/-- The columns of data bits 0 to 31: the 7-bit values with exactly three bits set, in ascending order. -/
def dataColumns : List (BitVec 7) :=
  [0x07, 0x0B, 0x0D, 0x0E, 0x13, 0x15, 0x16, 0x19, 0x1A, 0x1C, 0x23, 0x25, 0x26, 0x29, 0x2A, 0x2C]
    ++ [0x31, 0x32, 0x34, 0x38, 0x43, 0x45, 0x46, 0x49, 0x4A, 0x4C, 0x51, 0x52, 0x54, 0x58, 0x61, 0x62]

/-- The columns of check bits 0 to 6: bit i alone. -/
def checkColumns : List (BitVec 7) :=
  [0x01, 0x02, 0x04, 0x08, 0x10, 0x20, 0x40]

/-- The exclusive OR of the columns of the data bits that are set, from bit `j` on. -/
def goodCodeFrom (d : Word) : List (BitVec 7) → Nat → BitVec 7
  | [], _ => 0
  | col :: cols, j => (if d.getLsbD j then col else 0) ^^^ goodCodeFrom d cols (j + 1)

/-- The good check value of a data word. -/
def goodCode (d : Word) : BitVec 7 :=
  goodCodeFrom d dataColumns 0

/-- The poison syndrome. -/
def poisonSyndrome : BitVec 7 := 0x3F

/-- The poison marker of a data word: its good check value with check bits 0 to 5 inverted. -/
def poisonMarker (d : Word) : BitVec 7 :=
  goodCode d ^^^ poisonSyndrome

/-- The index of a column in a list, counted from `j`. -/
def columnIndex (syn : BitVec 7) : List (BitVec 7) → Nat → Option Nat
  | [], _ => none
  | col :: cols, j => if col = syn then some j else columnIndex syn cols (j + 1)

/-- The four classes of a word read from a protected bank. -/
inductive CheckClass where
  | clean
  | corrected (value : Word)
  | uncorrectable
  | poisoned
  deriving DecidableEq, Repr

/-- The class of a word and its check value as read: zero syndrome, a single position's column, the
poison syndrome, any other, in the order of R130's table. -/
def checkClass (d : Word) (lane : BitVec 7) : CheckClass :=
  let syn := goodCode d ^^^ lane
  if syn = 0 then .clean
  else if (columnIndex syn checkColumns 0).isSome then .corrected d
  else
    match columnIndex syn dataColumns 0 with
    | some j => .corrected (d ^^^ ((1 : Word) <<< j))
    | none => if syn = poisonSyndrome then .poisoned else .uncorrectable

/-! ## Access forms (R1) -/

/-- A single access: 1, 2 or 4 bytes at its natural alignment; a locked one is a 4-byte read. -/
def singleForm (a : Access) : Bool :=
  (a.size.val == 1 || a.size.val == 2 || a.size.val == 4)
    && a.addr.toNat % a.size.val == 0
    && (!a.locked || (!a.write && a.size.val == 4))

/-- A burst of 2 to 8 words of 4 bytes, word-aligned, inside one 32-byte block, never locked. -/
def burstForm (a : Access) (n : Nat) : Bool :=
  a.size.val == 4 && decide (2 ≤ n) && decide (n ≤ 8) && a.addr.toNat % 4 == 0
    && a.addr.toNat / 32 == (a.addr.toNat + 4 * n - 1) / 32
    && !a.locked

/-- The form check of R1. -/
def formOk (a : Access) : Bool :=
  match a.burst with
  | none => singleForm a
  | some n => burstForm a n.val

/-- The number of words an access touches. -/
def wordCount (a : Access) : Nat :=
  match a.burst with
  | none => 1
  | some n => n.val

/-- The address of the word that holds the access's first byte. -/
def firstWord (a : Access) : Nat :=
  a.addr.toNat / 4 * 4

/-- The byte position inside that word. -/
def byteLane (a : Access) : Nat :=
  a.addr.toNat % 4

/-- A single 4-byte access. -/
def isSingleWord (a : Access) : Bool :=
  a.burst.isNone && a.size.val == 4

/-- The write half of a locked pair (R3): a single 4-byte write to the same word, with no locked marking
of its own. -/
def isWriteHalf (a : Access) (addr : Nat) : Bool :=
  a.write && isSingleWord a && !a.locked && a.addr.toNat == addr

/-- The data word of beat `i`. -/
def beatData (a : Access) (i : Nat) : Word :=
  a.data.getD i 0

/-- The burst length as a capture shows it: 1 for a single (12.2). -/
def burstNat (a : Access) : Nat :=
  match a.burst with
  | none => 1
  | some n => n.val

/-! ## The writable words of the BCB (R16, 12.1) -/

/-- Whether the word at an offset is writable for a port. -/
def bcbWritable (p : Port) (off : Nat) : Bool :=
  off == 2 + portNat p
    || (decide (6 ≤ off) && decide (off ≤ 13))
    || (decide (32 + 16 * portNat p ≤ off) && decide (off ≤ 47 + 16 * portNat p))

/-! ## Fault codes (1.5) and fields of a command word (12.3) -/

def faultNat : FaultCode → Nat
  | .unmapped => 1
  | .denied => 2
  | .reserved => 3
  | .channelOff => 5
  | .form => 6
  | .role => 7
  | .blocked => 8
  | .uncorrectable => 9
  | .poisoned => 10
  | .unavailable => 11
  | .timeout => 12
  | .abandoned => 13
  | .holdExpired => 14

def commandCode (w : Word) : Nat := bitsOf w 0 8

def commandArgA (w : Word) : Nat := bitsOf w 8 8

def commandArgB (w : Word) : Nat := bitsOf w 16 8

/-! ## Indices and ranges -/

/-- The eight slot indices in ascending order. -/
def slotIds : List (Fin 8) := [0, 1, 2, 3, 4, 5, 6, 7]

/-- The four banks in order. -/
def bankIds : List BankId := [0, 1, 2, 3]

/-- The sixteen channels in order. -/
def chanIds : List ChanId := [0, 1, 2, 3, 4, 5, 6, 7, 8, 9, 10, 11, 12, 13, 14, 15]

/-- The regions, highest number first (R23). -/
def regionIdsDown : List (Fin 8) := [7, 6, 5, 4, 3, 2, 1, 0]

/-- Whether two address ranges, each given by base and length, share an address. An empty range shares none. -/
def rangesOverlap (b1 n1 b2 n2 : Nat) : Bool :=
  decide (0 < n1) && decide (0 < n2) && decide (b1 < b2 + n2) && decide (b2 < b1 + n1)

/-- Whether an address lies in a range. -/
def inRange (a base len : Nat) : Bool :=
  decide (base ≤ a) && decide (a < base + len)

/-- An offset joins a set kept in ascending order; one already in it stays once. -/
def insertOffset (k : Nat) : List Nat → List Nat
  | [] => [k]
  | x :: xs => if k < x then k :: x :: xs else if k = x then x :: xs else x :: insertOffset k xs

/-! ## Addresses of a channel (R30) -/

/-- Bytes of one window, slot or substitute image. -/
def ChannelConfig.bytes (cfg : ChannelConfig) : Nat := 4 * cfg.len

/-- The first address of slot `i`. -/
def ChannelConfig.slotAddr (cfg : ChannelConfig) (i : Fin 8) : Nat :=
  cfg.slotBase + 4 * (i.val * cfg.len)

/-- Whether an address is in the window. -/
def ChannelConfig.inWindow (cfg : ChannelConfig) (a : Nat) : Bool :=
  inRange a cfg.windowBase (4 * cfg.len)

/-- Whether an address is in the slot area. -/
def ChannelConfig.inSlotArea (cfg : ChannelConfig) (a : Nat) : Bool :=
  inRange a cfg.slotBase (4 * cfg.depth * cfg.len)

/-! ## Permissions (R22, R23) -/

def permitsRead : Permission → Bool
  | .none => false
  | .read => true
  | .readWrite => true

def permitsWrite : Permission → Bool
  | .none => false
  | .read => false
  | .readWrite => true

/-- What a permission allows: a read needs READ or READWRITE, a write READWRITE, a locked read
READWRITE (R23, R25). -/
def permits (perm : Permission) (a : Access) : Bool :=
  if a.write || a.locked then permitsWrite perm else permitsRead perm

/-- Whether an enabled region covers an address (R22). -/
def Region.covers (r : Region) (a : Nat) : Bool :=
  r.enabled && decide (r.base.toNat * 256 ≤ a) && decide (a ≤ r.limit.toNat * 256 + 255)

end Sys2Proof.Machine
end

