-- ==== Sys2Proof/Machine/Flags.lean ====
section
/-! DEFINITION. Event flags, masks and interrupt lines (chapter 10): raising, clearing, posting, and the
level of a line. -/

namespace Sys2Proof.Machine

open Sys2Proof

/-- The nine global flags of a line (10.3). -/
inductive GlobalFlag where
  | cmdDone
  | accessFault
  | eccCorrected
  | eccUncorrectable
  | poisonRead
  | bankRetry
  | bankFenced
  | scrubPass
  | configFallback
  deriving DecidableEq, Repr

/-- The seven flags of a channel (R55). -/
inductive ChannelFlag where
  | commit
  | stale
  | lost
  | consumed
  | dropped
  | blocked
  | abandoned
  deriving DecidableEq, Repr

/-- Bit numbers of the global flags (12.5). -/
def GlobalFlag.bit : GlobalFlag → Fin 9
  | .cmdDone => 0
  | .accessFault => 1
  | .eccCorrected => 2
  | .eccUncorrectable => 3
  | .poisonRead => 4
  | .bankRetry => 5
  | .bankFenced => 6
  | .scrubPass => 7
  | .configFallback => 8

/-- Bit numbers of the channel flags (12.2). -/
def ChannelFlag.bit : ChannelFlag → Fin 7
  | .commit => 0
  | .stale => 1
  | .lost => 2
  | .consumed => 3
  | .dropped => 4
  | .blocked => 5
  | .abandoned => 6

/-- The bits of the global flags in order. -/
def globalBits : List (Fin 9) := [0, 1, 2, 3, 4, 5, 6, 7, 8]

/-- The bits of the channel flags in order. -/
def channelBits : List (Fin 7) := [0, 1, 2, 3, 4, 5, 6]

/-! ## The two flag stores -/

def State.globalStage (s : State) (l : Port) (n : Fin 9) : Stage :=
  (s.globalFlags.get l).get n

def State.setGlobalStage (s : State) (l : Port) (n : Fin 9) (g : Stage) : State :=
  { s with globalFlags := s.globalFlags.set l ((s.globalFlags.get l).set n g) }

def State.channelStage (s : State) (c : ChanId) (n : Fin 7) : Stage :=
  (s.channelFlags.get c).get n

def State.setChannelStage (s : State) (c : ChanId) (n : Fin 7) (g : Stage) : State :=
  { s with channelFlags := s.channelFlags.set c ((s.channelFlags.get c).set n g) }

/-! ## Raising (R161) -/

/-- Raising a global flag of a line: CLEAR becomes PENDING, any other stage stays. -/
def raiseGlobal (l : Port) (f : GlobalFlag) (s : State) : State :=
  if s.globalStage l f.bit = .clear then s.setGlobalStage l f.bit .pending else s

/-- Raising a flag on both lines (10.3). -/
def raiseBoth (f : GlobalFlag) (s : State) : State :=
  raiseGlobal .port1 f (raiseGlobal .port0 f s)

/-- Raising a flag of a channel. -/
def raiseChannel (c : ChanId) (f : ChannelFlag) (s : State) : State :=
  if s.channelStage c f.bit = .clear then s.setChannelStage c f.bit .pending else s

/-! ## Clearing (R161, R163) -/

/-- The BCB offset of a line's global flag word (12.1). -/
def globalFlagOffset (l : Port) : Nat := 14 + portNat l

/-- The BCB offset of a channel's flag word (12.1). -/
def channelFlagOffset (c : ChanId) : Nat := 16 + c.val

/-- A flag that is cleared is no longer posted by a mirror write in flight that carried it (R161). -/
def dropCarried (off bit : Nat) (s : State) : State :=
  match s.mirror.request with
  | .inFlight w =>
    if w.off = off then
      { s with mirror := { s.mirror with request := .inFlight { w with carried := w.carried.filter (fun n => n != bit) } } }
    else s
  | .none => s
  | .waiting _ => s
  | .timedOut _ => s

def clearGlobal (l : Port) (n : Fin 9) (s : State) : State :=
  dropCarried (globalFlagOffset l) n.val (s.setGlobalStage l n .clear)

def clearChannelFlag (c : ChanId) (n : Fin 7) (s : State) : State :=
  dropCarried (channelFlagOffset c) n.val (s.setChannelStage c n .clear)

/-- CHANNEL_RESET, CHANNEL_LOAD and CHANNEL_UNLOAD clear every flag of the channel (R55). -/
def clearChannelFlags (c : ChanId) (s : State) : State :=
  channelBits.foldl (fun t n => clearChannelFlag c n t) s

/-- Whether some bank is FENCED: BANK_FENCED then stays set at an acknowledgement (R155). -/
def someBankFenced (s : State) : Bool :=
  bankIds.any (fun b => (s.banks.get b).service == .fenced)

/-- One bit of a global ack word: a 1 clears its flag, but for BANK_FENCED while a bank is FENCED (R163). -/
def ackGlobalBit (l : Port) (w : Word) (n : Fin 9) (s : State) : State :=
  if w.getLsbD n.val && !(n == GlobalFlag.bankFenced.bit && someBankFenced s) then clearGlobal l n s else s

/-- A global ack word of a line (R163). -/
def ackGlobal (l : Port) (w : Word) (s : State) : State :=
  globalBits.foldl (fun t n => ackGlobalBit l w n t) s

/-- Whether a channel is STALE: its STALE flag then stays set at an acknowledgement (R112). -/
def channelStale (s : State) (c : ChanId) : Bool :=
  match s.channels.get c with
  | some ch => ch.state == .stale
  | none => false

/-- One flag bit of the channel ack word (12.3: flag n is bit 8 + n). -/
def ackChannelBit (c : ChanId) (w : Word) (n : Fin 7) (s : State) : State :=
  if w.getLsbD (8 + n.val) && !(n == ChannelFlag.stale.bit && channelStale s c) then clearChannelFlag c n s
  else s

/-- The channel ack word: an UNCONFIGURED channel, or a number above 15, clears nothing (R163). -/
def ackChannel (w : Word) (s : State) : State :=
  if h : bitsOf w 0 8 < 16 then
    let c : ChanId := ⟨bitsOf w 0 8, h⟩
    if (s.channels.get c).isSome then channelBits.foldl (fun t n => ackChannelBit c w n t) s else s
  else s

/-! ## Posting (R161) -/

/-- The bits of a flag word whose flags are PENDING: what a mirror write granted now carries. -/
def pendingBits (s : State) (off : Nat) : List Nat :=
  if off = 14 then (globalBits.filter (fun n => s.globalStage .port0 n == .pending)).map (·.val)
  else if off = 15 then (globalBits.filter (fun n => s.globalStage .port1 n == .pending)).map (·.val)
  else if h : 16 ≤ off ∧ off < 32 then
    (channelBits.filter (fun n => s.channelStage ⟨off - 16, by omega⟩ n == .pending)).map (·.val)
  else []

/-- Posting one global flag that a completed write carried. -/
def postGlobalBit (l : Port) (carried : List Nat) (n : Fin 9) (s : State) : State :=
  if carried.contains n.val && s.globalStage l n == .pending then s.setGlobalStage l n .posted else s

/-- Posting one channel flag that a completed write carried. -/
def postChannelBit (c : ChanId) (carried : List Nat) (n : Fin 7) (s : State) : State :=
  if carried.contains n.val && s.channelStage c n == .pending then s.setChannelStage c n .posted else s

/-- The flags of a word that a completed mirror write carried become POSTED. -/
def postFlags (off : Nat) (carried : List Nat) (s : State) : State :=
  if off = 14 then globalBits.foldl (fun t n => postGlobalBit .port0 carried n t) s
  else if off = 15 then globalBits.foldl (fun t n => postGlobalBit .port1 carried n t) s
  else if h : 16 ≤ off ∧ off < 32 then
    channelBits.foldl (fun t n => postChannelBit ⟨off - 16, by omega⟩ carried n t) s
  else s

/-! ## The interrupt lines (R162) -/

/-- The line a channel flag is routed to: COMMIT, STALE and LOST to the reader's, the others to the
writer's (R55). -/
def flagLine (cfg : ChannelConfig) (n : Fin 7) : Port :=
  if n.val < 3 then cfg.reader else cfg.writer

/-- A posted, unmasked global flag. -/
def globalAsserts (s : State) (l : Port) (n : Fin 9) : Bool :=
  s.globalStage l n == .posted && (s.globalMask.get l).getLsbD n.val

/-- A posted, unmasked flag of a channel routed to the line. -/
def channelAsserts (s : State) (l : Port) (c : ChanId) (n : Fin 7) : Bool :=
  match s.channels.get c with
  | some ch =>
    s.channelStage c n == .posted && (s.channelMask.get l).getLsbD c.val && flagLine ch.config n == l
  | none => false

/-- A line is asserted exactly when at least one posted, unmasked flag of it is set (R162). -/
def State.line (s : State) (l : Port) : Bool :=
  globalBits.any (fun n => globalAsserts s l n)
    || chanIds.any (fun c => channelBits.any (fun n => channelAsserts s l c n))

end Sys2Proof.Machine
end

