-- ==== Sys2Proof/Machine/Mirror.lean ====
section
/-! DEFINITION. The value each BCB word shows (12.1, 12.2, 12.5), the dirty set, and the frame every step
runs in: the words whose values a step changed are marked dirty (R158). -/

namespace Sys2Proof.Machine

open Sys2Proof

/-! ## Encodings (12.5) -/

def serviceNat : Service → Nat
  | .unused => 0
  | .inService => 1
  | .retryWait => 2
  | .probing => 3
  | .fenced => 4

def causeNat : FaultCause → Nat
  | .none => 0
  | .timeout => 1
  | .storm => 2
  | .command => 3

def sourceNat : Source → Nat
  | .port0 => 0
  | .port1 => 1
  | .copy => 2
  | .scrub => 3
  | .probe => 4

def loadOutcomeNat : LoadOutcome → Nat
  | .ok => 0
  | .signature => 1
  | .format => 2
  | .length => 3
  | .crc => 4
  | .badField => 5
  | .bankLayout => 6
  | .bcbPlacement => 7
  | .regionRange => 8
  | .channel => 9

def commandOutcomeNat : CommandOutcome → Nat
  | .none => 0
  | .pending => 1
  | .done => 2
  | .badArgument => 3
  | .wrongState => 4

def scrubPhaseNat : ScrubPhase → Nat
  | .pacing => 0
  | .requesting => 1
  | .reading => 2
  | .noBank => 3

def channelStateNat : ChannelState → Nat
  | .off => 0
  | .live => 1
  | .stale => 2

def slotStateNat : SlotState → Nat
  | .free => 0
  | .filling => 1
  | .committed => 2

def modeNat : Mode → Nat
  | .latest => 0
  | .queue => 1

def channelCopyNat : ChannelCopy → Nat
  | .none => 0
  | .queued => 1
  | .copying _ => 2

def engineStateNat : EngineState → Nat
  | .idle => 0
  | .active _ => 1
  | .ending _ _ => 2
  | .draining _ => 3

/-- The state field of word 0. R176 gives it no number for LOADING, when no port reads the word: the model takes 0
(log 42). -/
def deviceNat : Device → Nat
  | .loading => 0
  | .run => 1
  | .fallback => 2

/-- A slot index or 15 for none (12.2, channel status record). -/
def optSlotNat : Option (Fin 8) → Nat
  | some i => i.val
  | none => 15

/-- 0 to 7 a slot, 14 the substitute image, 15 none. -/
def heldNat : Held → Nat
  | .slot i => i.val
  | .substitute => 14
  | .none => 15

def optCount : Option (BitVec 32) → Word
  | some t => t
  | none => 0

/-! ## Single words -/

/-- Word 0 (R176). -/
def deviceStateWord (s : State) : Word :=
  BitVec.ofNat 32
    (fieldAt 0 2 (deviceNat s.device) + fieldAt 4 4 (loadOutcomeNat s.loadOutcome)
      + fieldAt 8 4 s.failedChannel.val
      + fieldAt 12 1 (match s.resetCause with | .pin => 0 | .reload => 1))

/-- A result word: code and low four bits of the arguments of the last accepted command, its outcome, and
the refusal part (12.2). -/
def resultWord (c : PortCommand) : Word :=
  BitVec.ofNat 32
    (fieldAt 0 8 (commandCode c.echo) + fieldAt 8 4 (commandArgA c.echo) + fieldAt 12 4 (commandArgB c.echo)
      + fieldAt 16 3 (commandOutcomeNat c.outcome)
      + (match c.refused with
          | none => 0
          | some code => fieldAt 20 1 1 + fieldAt 24 8 code.toNat))

/-- A flag shows as 1 while it is PENDING or POSTED. -/
def stageNat (g : Stage) : Nat :=
  match g with
  | .clear => 0
  | .pending => 1
  | .posted => 1

def globalFlagWord (s : State) (l : Port) : Word :=
  BitVec.ofNat 32 ((globalBits.map (fun n => fieldAt n.val 1 (stageNat (s.globalStage l n)))).sum)

def channelFlagWord (s : State) (c : ChanId) : Word :=
  BitVec.ofNat 32 ((channelBits.map (fun n => fieldAt n.val 1 (stageNat (s.channelStage c n)))).sum)

def eccWord (s : State) : Word :=
  BitVec.ofNat 32 (fieldAt 0 16 s.ecc.corrected.toNat + fieldAt 16 16 s.ecc.uncorrectable.toNat)

def ueWord (s : State) : Word :=
  BitVec.ofNat 32 ((bankIds.map (fun b => fieldAt (8 * b.val) 8 (s.banks.get b).ueCount.toNat)).sum)

def portFaultWord (s : State) : Word :=
  BitVec.ofNat 32
    (fieldAt 0 8 s.ports.first.faultCount.toNat + fieldAt 8 8 s.ports.second.faultCount.toNat)

/-- The four words of a port fault capture; an empty capture shows 0 in each. -/
def portCaptureWord (c : Capture PortFault) (k : Nat) : Word :=
  match c.record with
  | none => 0
  | some r =>
    match k with
    | 0 => BitVec.ofNat 32 (fieldAt 0 24 r.addr.toNat + fieldAt 31 1 1)
    | 1 =>
      BitVec.ofNat 32
        (fieldAt 0 1 (bitNat r.write) + fieldAt 1 3 r.size.val + fieldAt 4 4 r.burst
          + fieldAt 8 1 (bitNat r.locked) + fieldAt 16 4 (faultNat r.code))
    | 2 => r.time
    | _ => BitVec.ofNat 32 (fieldAt 0 8 c.overflow.toNat)

/-- The four words of the memory error capture. -/
def memCaptureWord (c : Capture MemFault) (k : Nat) : Word :=
  match c.record with
  | none => 0
  | some r =>
    match k with
    | 0 => BitVec.ofNat 32 (fieldAt 0 24 r.addr + fieldAt 31 1 1)
    | 1 => BitVec.ofNat 32 (fieldAt 0 2 r.bank.val + fieldAt 4 3 (sourceNat r.source))
    | 2 => r.time
    | _ => BitVec.ofNat 32 (fieldAt 0 8 c.overflow.toNat)

/-- The two words of a bank status record. -/
def bankStatusWord (b : Bank) (k : Nat) : Word :=
  if k = 0 then
    BitVec.ofNat 32
      (fieldAt 0 3 (serviceNat b.service) + fieldAt 4 4 b.retries.val + fieldAt 8 1 (bitNat b.rfull)
        + fieldAt 12 2 (causeNat b.cause))
  else if b.cause = .none then 0 else optCount b.faultTime

/-- The three words of the scrub status record; what the phase shows while STOPPED and the position while
none is open (log 7). -/
def scrubStatusWord (x : Scrubber) (k : Nat) : Word :=
  match k with
  | 0 =>
    match x.state with
    | .stopped => BitVec.ofNat 32 (fieldAt 4 2 Config.stoppedScrubPhase.toNat)
    | .running ph => BitVec.ofNat 32 (fieldAt 0 1 1 + fieldAt 4 2 (scrubPhaseNat ph))
  | 1 =>
    match x.position with
    | some a => BitVec.ofNat 32 (fieldAt 0 24 a)
    | none => BitVec.ofNat 32 (fieldAt 0 24 Config.absentScrubPosition.toNat + fieldAt 31 1 1)
  | _ => BitVec.ofNat 32 (fieldAt 0 16 x.passes.toNat)

/-- The engine's current copy, if there is one (R85). -/
def EngineState.job : EngineState → Option CopyJob
  | .idle => none
  | .active j => some j
  | .ending j _ => some j
  | .draining j => some j

/-- Entry `i` of the copy queue as 4 bits. 12.2 does not say what the fields past the queue's length show: the model
shows 0 there (log 42). -/
def queueEntryNat (q : List ChanId) (i : Nat) : Nat :=
  match q[i]? with
  | some c => c.val
  | none => 0

/-- The three words of the copy status record. -/
def copyStatusWord (e : CopyEngine) (k : Nat) : Word :=
  match k with
  | 0 =>
    BitVec.ofNat 32
      (fieldAt 0 2 (engineStateNat e.state)
        + (match e.state.job with
            | none => 0
            | some j =>
              fieldAt 3 1 1 + fieldAt 4 4 j.channel.val + fieldAt 8 4 j.source.val
                + fieldAt 12 4 j.target.val)
        + fieldAt 16 5 e.queue.length)
  | 1 => BitVec.ofNat 32 (((List.range 8).map (fun i => fieldAt (4 * i) 4 (queueEntryNat e.queue i))).sum)
  | _ =>
    BitVec.ofNat 32 (((List.range 8).map (fun i => fieldAt (4 * i) 4 (queueEntryNat e.queue (8 + i)))).sum)

/-! ## Channel status records -/

/-- A slot is valid when its retired flag is clear and the bank is in service in the channel's view (R37). -/
def Channel.valid (ch : Channel) (i : Fin 8) : Bool :=
  ch.bankUp && !(ch.slots.get i).retired

/-- The next offset shown: 0 unless COPYING. -/
def copyNextNat : ChannelCopy → Nat
  | .none => 0
  | .queued => 0
  | .copying k => k

/-- Entry `i` of the committed list as 4 bits, 0 past its end. -/
def committedEntryNat (q : List (Fin 8)) (i : Nat) : Nat :=
  match q[i]? with
  | some c => c.val
  | none => 0

/-- The 4-bit field of slot `i` in word 7: state, retired, valid. 12.2 does not say what the field of a slot that does
not exist shows: the model shows 0 (log 42). -/
def slotFieldNat (ch : Channel) (i : Fin 8) : Nat :=
  if i.val < ch.config.depth then
    fieldAt 0 2 (slotStateNat (ch.slots.get i).state) + fieldAt 2 1 (bitNat (ch.slots.get i).retired)
      + fieldAt 3 1 (bitNat (ch.valid i))
  else 0

/-- The 16 words of the status record of a configured channel. -/
def channelStatusWord (ch : Channel) (k : Nat) : Word :=
  match k with
  | 0 =>
    BitVec.ofNat 32
      (fieldAt 0 1 1 + fieldAt 1 1 (modeNat ch.config.mode) + fieldAt 4 4 ch.config.depth
        + fieldAt 8 2 (channelStateNat ch.state) + fieldAt 12 4 (optSlotNat ch.newest)
        + fieldAt 16 4 (heldNat ch.held) + fieldAt 20 4 (optSlotNat ch.filling)
        + fieldAt 24 2 (channelCopyNat ch.copy) + fieldAt 28 4 ch.committed.length)
  | 1 => ch.frames
  | 2 =>
    BitVec.ofNat 32 (((List.range 8).map (fun i => fieldAt (4 * i) 4 (committedEntryNat ch.committed i))).sum)
  | 3 => BitVec.ofNat 32 (fieldAt 0 13 (copyNextNat ch.copy) + fieldAt 16 1 (bitNat ch.lastCommit.isSome))
  | 4 => optCount ch.lastCommit
  | 5 => BitVec.ofNat 32 (fieldAt 0 16 ch.dropped.toNat + fieldAt 16 16 ch.lost.toNat)
  | 6 => BitVec.ofNat 32 (fieldAt 0 16 ch.blocked.toNat + fieldAt 16 16 ch.empty.toNat)
  | 7 => BitVec.ofNat 32 ((slotIds.map (fun i => fieldAt (4 * i.val) 4 (slotFieldNat ch i))).sum)
  | k =>
    if h : k - 8 < 8 then
      if k - 8 < ch.config.depth then optCount (ch.slots.get ⟨k - 8, h⟩).frame else 0
    else 0

/-- The commit time word of slot `k` of a configured channel. -/
def channelTimeWord (ch : Channel) (k : Fin 8) : Word :=
  if k.val < ch.config.depth then optCount (ch.slots.get k).commitTime else 0

/-! ## The whole BCB (12.1) -/

/-- The value the BCB word at an offset shows; a word without a mirrored meaning shows zero (R157). -/
def mirrorWord (s : State) (off : Nat) : Word :=
  if h : 128 ≤ off ∧ off < 384 then
    match s.channels.get ⟨(off - 128) / 16, by omega⟩ with
    | some ch => channelStatusWord ch ((off - 128) % 16)
    | none => 0
  else if h : 384 ≤ off ∧ off < 512 then
    match s.channels.get ⟨(off - 384) / 8, by omega⟩ with
    | some ch => channelTimeWord ch ⟨(off - 384) % 8, by omega⟩
    | none => 0
  else if h : 16 ≤ off ∧ off < 32 then channelFlagWord s ⟨off - 16, by omega⟩
  else if h : 80 ≤ off ∧ off < 88 then
    bankStatusWord (s.banks.get ⟨(off - 80) / 2, by omega⟩) ((off - 80) % 2)
  else if 68 ≤ off ∧ off < 72 then portCaptureWord s.ports.first.capture (off - 68)
  else if 72 ≤ off ∧ off < 76 then portCaptureWord s.ports.second.capture (off - 72)
  else if 76 ≤ off ∧ off < 80 then memCaptureWord s.memCapture (off - 76)
  else if 88 ≤ off ∧ off < 91 then scrubStatusWord s.scrub (off - 88)
  else if 92 ≤ off ∧ off < 95 then copyStatusWord s.copy (off - 92)
  else
    match off with
    | 0 => deviceStateWord s
    | 1 => s.msCount
    | 4 => resultWord s.commands.first
    | 5 => resultWord s.commands.second
    | 6 => s.globalMask.first
    | 7 => s.globalMask.second
    | 8 => s.channelMask.first
    | 9 => s.channelMask.second
    | 14 => globalFlagWord s .port0
    | 15 => globalFlagWord s .port1
    | 64 => eccWord s
    | 65 => BitVec.ofNat 32 (fieldAt 0 16 s.ecc.poisonReads.toNat)
    | 66 => ueWord s
    | 67 => portFaultWord s
    | _ => 0

/-! ## The dirty set (R158) -/

/-- Marking an offset; one already in the set leaves the set as it is. -/
def markDirty (off : Nat) (s : State) : State :=
  { s with mirror := { s.mirror with dirty := insertOffset off s.mirror.dirty } }

/-- Marking several offsets. -/
def markAll (offs : List Nat) (s : State) : State :=
  { s with mirror := { s.mirror with dirty := offs.foldl (fun d off => insertOffset off d) s.mirror.dirty } }

/-- The offsets of a channel's status record and of its commit times (12.1). -/
def recordOffsets (c : ChanId) : List Nat :=
  List.range' (128 + 16 * c.val) 16 ++ List.range' (384 + 8 * c.val) 8

/-- The offsets that have a mirrored meaning (12.1). -/
def mirroredOffsets : List Nat :=
  [0, 1] ++ List.range' 4 6 ++ List.range' 14 18 ++ List.range' 64 27 ++ List.range' 92 3 ++ List.range' 128 384

/-- What tells two values of a scrub status word apart: the phase while RUNNING, the position, the pass count.
The values that are open while STOPPED, or while the position is none, do not change (log 7). -/
def scrubShown (x : Scrubber) (k : Nat) : Option Nat :=
  match k with
  | 0 =>
    match x.state with
    | .stopped => none
    | .running ph => some (scrubPhaseNat ph)
  | 1 => x.position.map (fun a => a % 2 ^ 24)
  | _ => some x.passes.toNat

/-- Whether a BCB word shows different values in two states. For the scrub status words this is asked of the
fields they show, which comes to the same (`wordChanged_iff` in Sys2Proof/Laws/Mirror.lean). -/
def wordChanged (s t : State) (off : Nat) : Bool :=
  if 88 ≤ off ∧ off < 91 then scrubShown s.scrub (off - 88) != scrubShown t.scrub (off - 88)
  else mirrorWord s off != mirrorWord t off

/-- The offsets an owner marks together with an offset: a bank's two status words at each change of a value they
show (R144, R145, R148, R151), a capture's four words at each fill, overflow increase and emptying (R136, R164),
and any other word alone. -/
def markedWith (off : Nat) : List Nat :=
  if 68 ≤ off ∧ off < 80 then List.range' (off / 4 * 4) 4
  else if 80 ≤ off ∧ off < 88 then List.range' (off / 2 * 2) 2
  else [off]

/-- The offsets marked for the words that show different values in two states. -/
def changedOffsets (s t : State) : List Nat :=
  mirroredOffsets.filter (fun off => (markedWith off).any (wordChanged s t))

/-- Every BCB offset, as the dirty set holds them when LOADING ends (R158). -/
def allOffsets : List Nat := List.range 1024

/-- The owners have marked the words whose values changed between two states (R158): those at the two ends of a step,
and where two owners act in turn within one step also those between them (log 17). During LOADING the set is
empty: it is emptied on entering and takes every offset at the end. -/
def settle (s t : State) : State :=
  { t with mirror := { t.mirror with
      dirty :=
        if t.device = .loading then []
        else (changedOffsets s t).foldl (fun d off => insertOffset off d) t.mirror.dirty } }

/-- What a step makes of a state: an event whose precondition does not hold does not happen (log 2). -/
def afterEvent (s : State) (r : Option State) : State :=
  match r with
  | none => s
  | some t => settle s t

/-- The frame of every step but those of the pin reset: while the pin reset is asserted every block is held
in its reset condition (R170). -/
def event (s : State) (f : State → Option State) : State :=
  if s.pinAsserted then s else afterEvent s (f s)

end Sys2Proof.Machine
end

