-- ==== Sys2Proof/Machine/Ops.lean ====
section
/-! DEFINITION. The operations the steps share: records, answers and their effects at a port (R12), word
accesses with the check unit (chapters 7 and 8), the operations of the ports, handovers (R17) and the
putting of requests (R122). -/

namespace Sys2Proof.Machine

open Sys2Proof

/-! ## Records -/

def State.port (s : State) (p : Port) : PortRecord := s.ports.get p

def State.setPort (s : State) (p : Port) (r : PortRecord) : State :=
  { s with ports := s.ports.set p r }

def State.bank (s : State) (b : BankId) : Bank := s.banks.get b

def State.setBank (s : State) (b : BankId) (x : Bank) : State :=
  { s with banks := s.banks.set b x }

def State.chan (s : State) (c : ChanId) : Option Channel := s.channels.get c

def State.setChan (s : State) (c : ChanId) (x : Option Channel) : State :=
  { s with channels := s.channels.set c x }

def State.command (s : State) (p : Port) : PortCommand := s.commands.get p

def State.setCommand (s : State) (p : Port) (x : PortCommand) : State :=
  { s with commands := s.commands.set p x }

def State.setPhase (s : State) (p : Port) (ph : PortPhase) : State :=
  s.setPort p { s.port p with phase := ph }

/-- Freeing or taking the memory port. -/
def State.setBusy (s : State) (b : Option Busy) : State :=
  { s with arbiter := { s.arbiter with busy := b } }

def State.setLock (s : State) (l : Option Lock) : State :=
  { s with arbiter := { s.arbiter with lock := l } }

/-- Whether a bank is IN_SERVICE. -/
def State.inService (s : State) (b : BankId) : Bool :=
  (s.bank b).service == .inService

/-- Whether a configured bank's range covers an address (R21). -/
def Bank.covers (x : Bank) (a : Nat) : Bool :=
  match x.config with
  | some cfg => inRange a cfg.base cfg.size
  | none => false

/-- The configured bank that covers an address; banks do not overlap (R113). -/
def State.bankOf (s : State) (a : Nat) : Option BankId :=
  bankIds.find? (fun b => (s.bank b).covers a)

/-- Whether a bank's words carry the check code (R113, R130). -/
def State.isProtected (s : State) (b : BankId) : Bool :=
  match (s.bank b).config with
  | some cfg => cfg.checkCode
  | none => false

/-- The ready timeout of a bank's word accesses: there is one only with ready control on (R113, R125). -/
def State.readyLimit (s : State) (b : BankId) : Option Nat :=
  match (s.bank b).config with
  | some cfg => cfg.readyTimeout
  | none => none

/-! ## Answers (1.2, R12) -/

/-- A fault offered to a port's capture: taken when empty, otherwise one more in its overflow count (R164). -/
def offerFault (c : Capture PortFault) (r : PortFault) : Capture PortFault :=
  match c.record with
  | none => { c with record := some r }
  | some _ => { c with overflow := satInc c.overflow }

/-- The three effects of a FAULT answer at its port (R12). -/
def faultEffects (p : Port) (r : PortFault) (s : State) : State :=
  raiseGlobal p .accessFault
    (s.setPort p { s.port p with
      faultCount := satInc (s.port p).faultCount
      capture := offerFault (s.port p).capture r })

/-- The record a port hands the event unit with a fault (R12, R164). -/
def faultRecord (a : Access) (addr : BitVec 24) (locked : Bool) (f : FaultCode) (time : BitVec 32) :
    PortFault :=
  ⟨addr, a.write, a.size, burstNat a, locked, f, time⟩

/-- Giving an answer: the port returns to IDLE and its timer stops (R2, R9). A FAULT answer has its effects
at the port in RUN and FALLBACK only (R10, R12). -/
def giveAnswer (p : Port) (a : Access) (ans : Answer) (addr : BitVec 24) (locked : Bool) (s : State) : State :=
  let t := s.setPort p { s.port p with phase := .idle, hold := .stopped, answer := some ans }
  match ans.fault with
  | none => t
  | some f => if s.device = .loading then t else faultEffects p (faultRecord a addr locked f s.msCount) t

/-- A FAULT answer for the access as a whole; its address is the one the master presented (R12). -/
def answerFault (p : Port) (a : Access) (f : FaultCode) (s : State) : State :=
  giveAnswer p a ⟨[], some f⟩ a.addr a.locked s

/-- OKAY for a write, a release or a discard (R5). -/
def answerOkay (p : Port) (a : Access) (s : State) : State :=
  giveAnswer p a ⟨[], none⟩ a.addr a.locked s

/-- OKAY with zero data in every beat (R65, R66, R74 to R76). -/
def answerZero (p : Port) (a : Access) (s : State) : State :=
  giveAnswer p a ⟨List.replicate (wordCount a) 0, none⟩ a.addr a.locked s

/-! ## The check unit's counts (R133 to R136) -/

/-- A corrected word: one more corrected, ECC_CORRECTED on both lines (R131). -/
def countCorrected (s : State) : State :=
  raiseBoth .eccCorrected { s with ecc := { s.ecc with corrected := satInc s.ecc.corrected } }

/-- A word offered to the memory error capture (R136). -/
def offerMemFault (c : Capture MemFault) (r : MemFault) : Capture MemFault :=
  match c.record with
  | none => { c with record := some r }
  | some _ => { c with overflow := satInc c.overflow }

/-- Whether an increase of the bank's UE count reaches its nonzero storm threshold while the bank is
IN_SERVICE (R135). During LOADING the bank states are being replaced and nothing is reported (log 18). -/
def stormReached (s : State) (b : BankId) : Bool :=
  match (s.bank b).config with
  | some cfg =>
    s.device != .loading && s.inService b && cfg.stormThreshold != 0
      && (s.bank b).ueCount != satInc (s.bank b).ueCount
      && satInc (s.bank b).ueCount == cfg.stormThreshold
  | none => false

/-- An uncorrectable word: the two counts, ECC_UNCORRECTABLE on both lines, the capture offer, and the
STORM report made in the same step (R131, R134 to R136). -/
def countUncorrectable (src : Source) (b : BankId) (addr : Nat) (s : State) : State :=
  let t : State := s.setBank b { s.bank b with ueCount := satInc (s.bank b).ueCount }
  raiseBoth .eccUncorrectable
    { t with
      ecc := { t.ecc with uncorrectable := satInc t.ecc.uncorrectable }
      memCapture := offerMemFault t.memCapture ⟨addr, b, src, t.msCount⟩
      stormReports := if stormReached s b then t.stormReports ++ [b] else t.stormReports }

/-- A poisoned word counts, and raises POISON_READ on both lines, for port operations alone (R134). -/
def countPoisoned (src : Source) (s : State) : State :=
  match src with
  | .port0 | .port1 =>
    raiseBoth .poisonRead { s with ecc := { s.ecc with poisonReads := satInc s.ecc.poisonReads } }
  | .copy | .scrub | .probe => s

/-! ## Word accesses

A budget bounds how many word accesses get their ready: `none` for as many as there are, `some k` for `k`,
the next one then ending in TIMEOUT (R125). -/

/-- One word access taken from the budget; `none` when it gets no ready. -/
def spend : Option Nat → Option (Option Nat)
  | none => some none
  | some 0 => none
  | some (k + 1) => some (some k)

/-- A full-word write: the data, and its good check value in a protected bank (R117, R130). -/
def storeWord (b : BankId) (addr : Nat) (v : Word) (s : State) : State :=
  { s with
    ram := wordWrite s.ram addr v
    lanes := if s.isProtected b then cellWrite s.lanes addr (goodCode v) else s.lanes }

/-- A poison write or poison rewrite: the data bits with their poison marker (R118, R130). -/
def storePoison (addr : Nat) (v : Word) (s : State) : State :=
  { s with ram := wordWrite s.ram addr v, lanes := cellWrite s.lanes addr (poisonMarker v) }

/-- A direct byte write in a bank with the check code off (R117). -/
def storeBytes (addr : Nat) (v : Word) (s : State) : State :=
  { s with ram := wordWrite s.ram addr v }

/-- What a read access gives. The copy engine also needs the data bits of a bad word (R90). -/
inductive ReadOut where
  | data (d : Word)
  | uncorrectable (raw : Word)
  | poisoned (raw : Word)
  | timeout
  deriving DecidableEq, Repr

/-- The class of a protected word as it stands in memory (R130). -/
def State.classAt (s : State) (addr : Nat) : CheckClass :=
  checkClass (wordRead s.ram addr) (cellRead s.lanes addr)

/-- What a read access of a protected word of a class delivers, and its rewrite (R116, R131). The check unit
counts when the rewrite completes; a rewrite that times out counts nothing and leaves the word (R133). -/
def readClassed (src : Source) (b : BankId) (addr : Nat) (cls : CheckClass) (bud : Option Nat) (s : State) :
    ReadOut × Option Nat × State :=
  match cls with
  | .clean => (.data (wordRead s.ram addr), bud, s)
  | .corrected v =>
    match spend bud with
    | none => (.timeout, bud, s)
    | some bud1 => (.data v, bud1, countCorrected (storeWord b addr v s))
  | .uncorrectable =>
    match spend bud with
    | none => (.timeout, bud, s)
    | some bud1 =>
      (.uncorrectable (wordRead s.ram addr), bud1,
        countUncorrectable src b addr (storePoison addr (wordRead s.ram addr) s))
  | .poisoned => (.poisoned (wordRead s.ram addr), bud, countPoisoned src s)

/-- One read access with its correction write-back or poison rewrite (R116, R131). In a bank with the check code
off every word is clean. -/
def readAccess (src : Source) (b : BankId) (addr : Nat) (bud : Option Nat) (s : State) :
    ReadOut × Option Nat × State :=
  match spend bud with
  | none => (.timeout, bud, s)
  | some bud1 =>
    if s.isProtected b then readClassed src b addr (s.classAt addr) bud1 s
    else (.data (wordRead s.ram addr), bud1, s)

/-- How a port's operation ended: the data read, how many words were done, and the fault of the word after
them. -/
structure OpResult where
  data : List Word
  done : Nat
  fault : Option FaultCode
  deriving DecidableEq, Repr

/-- The fault a read access gives a port. -/
def readFault : ReadOut → Option FaultCode
  | .data _ => none
  | .uncorrectable _ => some .uncorrectable
  | .poisoned _ => some .poisoned
  | .timeout => some .timeout

/-- A read operation, word by word in ascending order, ended by the first word whose outcome is a fault
(R6, R116). -/
def readWords (src : Source) (b : BankId) : List Nat → Option Nat → State → OpResult × State
  | [], _, s => (⟨[], 0, none⟩, s)
  | addr :: rest, bud, s =>
    match readAccess src b addr bud s with
    | (.data d, bud1, s1) =>
      let r := readWords src b rest bud1 s1
      (⟨d :: r.1.data, r.1.done + 1, r.1.fault⟩, r.2)
    | (out, _, s1) => (⟨[], 0, readFault out⟩, s1)

/-- A write operation of full words in ascending order; a word that ends in TIMEOUT keeps its old
contents, and so do the later ones (R7, R117). -/
def writeWords (b : BankId) : List (Nat × Word) → Option Nat → State → OpResult × State
  | [], _, s => (⟨[], 0, none⟩, s)
  | (addr, v) :: rest, bud, s =>
    match spend bud with
    | none => (⟨[], 0, some .timeout⟩, s)
    | some bud1 =>
      let r := writeWords b rest bud1 (storeWord b addr v s)
      (⟨[], r.1.done + 1, r.1.fault⟩, r.2)

/-- The second half of a read-modify-write, by the class of the word read (R117): the merged word with good
code, the other bytes from the corrected value; the poison rewrite for an uncorrectable word; nothing for a
poisoned one. The check unit counts as for a port read (R132, R133). -/
def mergeClassed (src : Source) (b : BankId) (addr lane size : Nat) (v : Word) (cls : CheckClass)
    (bud : Option Nat) (s : State) : OpResult × State :=
  match cls with
  | .clean =>
    match spend bud with
    | none => (⟨[], 0, some .timeout⟩, s)
    | some _ => (⟨[], 1, none⟩, storeWord b addr (laneMerge (wordRead s.ram addr) v lane size) s)
  | .corrected d =>
    match spend bud with
    | none => (⟨[], 0, some .timeout⟩, s)
    | some _ => (⟨[], 1, none⟩, countCorrected (storeWord b addr (laneMerge d v lane size) s))
  | .uncorrectable =>
    match spend bud with
    | none => (⟨[], 0, some .timeout⟩, s)
    | some _ =>
      (⟨[], 0, some .uncorrectable⟩,
        countUncorrectable src b addr (storePoison addr (wordRead s.ram addr) s))
  | .poisoned => (⟨[], 0, some .poisoned⟩, countPoisoned src s)

/-- A read-modify-write in a protected bank (R117): a read access of the word, then within the same grant its
second half. -/
def readModifyWrite (src : Source) (b : BankId) (addr lane size : Nat) (v : Word) (bud : Option Nat)
    (s : State) : OpResult × State :=
  match spend bud with
  | none => (⟨[], 0, some .timeout⟩, s)
  | some bud1 => mergeClassed src b addr lane size v (s.classAt addr) bud1 s

/-- A sub-word write (R117): direct bytes with the check code off, a read-modify-write with it on. -/
def subWordWrite (src : Source) (b : BankId) (addr lane size : Nat) (v : Word) (bud : Option Nat)
    (s : State) : OpResult × State :=
  if s.isProtected b then readModifyWrite src b addr lane size v bud s
  else
    match spend bud with
    | none => (⟨[], 0, some .timeout⟩, s)
    | some _ => (⟨[], 1, none⟩, storeBytes addr (laneMerge (wordRead s.ram addr) v lane size) s)

/-- The data a read delivers: whole words, or the addressed bytes (R4). -/
def deliver (op : PortOp) (data : List Word) : List Word :=
  if op.size = 4 then data else data.map (fun w => laneRead w op.lane op.size)

/-- A port's operation at the memory port (R115), under a budget of word accesses. -/
def portRun (p : Port) (op : PortOp) (bud : Option Nat) (s : State) : OpResult × State :=
  if op.write then
    if op.size = 4 then writeWords op.bank (op.addrs.zip op.data) bud s
    else subWordWrite (portSource p) op.bank (op.addrs.headD 0) op.lane op.size (op.data.headD 0) bud s
  else
    let r := readWords (portSource p) op.bank op.addrs bud s
    (⟨deliver op r.1.data, r.1.done, r.1.fault⟩, r.2)

/-! ## Handovers of command words (R165) -/

/-- The handover of a command word: accepted when the port's command state is IDLE, refused BUSY otherwise. A write
granted before a RELOAD may be handed over during LOADING: the RELOAD issuer's, whose command is EXECUTING, is refused
like any other (R165), and a command that would be accepted then is dropped, since R169 accepts none (log 18). -/
def acceptCommand (p : Port) (w : Word) (s : State) : State :=
  match (s.command p).state with
  | .idle =>
    if s.device = .loading then s
    else
      markDirty (4 + portNat p)
        { s.setCommand p ⟨.pending w s.nextStamp, w, .pending, none⟩ with nextStamp := s.nextStamp + 1 }
  | .pending _ _ | .executing _ =>
    raiseGlobal p .cmdDone
      (markDirty (4 + portNat p)
        (s.setCommand p { s.command p with refused := some (BitVec.ofNat 8 (commandCode w)) }))

/-- The end of the command a port has EXECUTING: its result word takes the outcome and is marked, CMD_DONE is
raised to the port's line, and its command state is IDLE (R166). -/
def endCommand (p : Port) (o : CommandOutcome) (s : State) : State :=
  raiseGlobal p .cmdDone
    (markDirty (4 + portNat p) (s.setCommand p { s.command p with state := .idle, outcome := o }))

/-! ## The end of a port's operation -/

/-- The address of a fault: the failing word's for a burst that stopped partway, otherwise the one the
master presented (R12). -/
def faultAddress (a : Access) (done : Nat) : BitVec 24 :=
  if a.burst.isSome then a.addr + BitVec.ofNat 24 (4 * done) else a.addr

/-- Whether a port operation is marked locked in a fault record: a locked read by its form, the write half by
its place in the pair (R12). -/
def lockedMark (a : Access) (tag : OpTag) : Bool :=
  a.locked || (tag == .writeHalf)

/-- The lock at the end of an operation: a locked read that ends with data opens it, a write half's end
closes it (R119). -/
def lockAfter (p : Port) (tag : OpTag) (fault : Option FaultCode) (s : State) : State :=
  match tag with
  | .lockedRead addr => if fault.isNone && s.device != .loading then s.setLock (some ⟨p, addr⟩) else s
  | .writeHalf => s.setLock none
  | .plain => s
  | .bcb _ => s
  | .commitWord _ _ => s

/-- The answer, or for a BCB write the handover first (R17): a command word is accepted in this step
(R165); a mask, ack or staging word is taken by its own step, which then gives the answer. -/
def answerOp (p : Port) (a : Access) (op : PortOp) (r : OpResult) (s : State) : State :=
  match op.tag with
  | .bcb off =>
    if off = 2 + portNat p then
      giveAnswer p a ⟨[], r.fault⟩ a.addr a.locked (acceptCommand p (beatData a 0) s)
    else s.setPort p { s.port p with phase := .handover a off (beatData a 0) r.fault, hold := .stopped }
  | .plain | .lockedRead _ | .writeHalf | .commitWord _ _ =>
    giveAnswer p a ⟨if op.write then [] else r.data, r.fault⟩ (faultAddress a r.done) (lockedMark a op.tag) s

/-- An operation ended without touching the memory: UNAVAILABLE (R122). -/
def unavailableResult : OpResult :=
  ⟨[], 0, some .unavailable⟩

/-- Putting an operation that holds no other access back: at the arbiter when its bank is in service,
UNAVAILABLE at once otherwise (R122). -/
def putLast (p : Port) (a : Access) (op : PortOp) (s : State) : State :=
  if s.inService op.bank then s.setPhase p (.atArbiter a op)
  else answerOp p a op unavailableResult s

/-- When a commit's word 0 write has ended, the reader tag read kept back on that slot is handed to the
memory controller (R73). -/
def releaseKeptBack (p : Port) (tag : OpTag) (s : State) : State :=
  match tag with
  | .commitWord c slot =>
    match (s.port (otherPort p)).phase with
    | .keptBack a op c' slot' => if c = c' ∧ slot = slot' then putLast (otherPort p) a op s else s
    | _ => s
  | .plain => s
  | .lockedRead _ => s
  | .writeHalf => s
  | .bcb _ => s

/-- Everything the end of a port's operation does, after its accesses have been made. -/
def endPortOp (p : Port) (a : Access) (op : PortOp) (r : OpResult) (s : State) : State :=
  releaseKeptBack p op.tag (answerOp p a op r (lockAfter p op.tag r.fault s))

/-- A port's operation put to the memory controller (R122). -/
def putPort (p : Port) (a : Access) (op : PortOp) (s : State) : State :=
  if s.inService op.bank then s.setPhase p (.atArbiter a op)
  else endPortOp p a op unavailableResult s

/-- The write data of an access, one word a beat. -/
def accessData (a : Access) : List Word :=
  (List.range (wordCount a)).map (beatData a)

/-- An operation on words at fixed physical addresses (R24, R30); with no bank under them it is answered
UNAVAILABLE, which no accepted configuration allows to arise (R32, log 19). -/
def putWords (p : Port) (a : Access) (addrs : List Nat) (data : List Word) (tag : OpTag) (s : State) : State :=
  match s.bankOf (addrs.headD 0) with
  | some b => putPort p a ⟨b, addrs, a.write, a.size.val, byteLane a, data, tag⟩ s
  | none => answerFault p a .unavailable s

/-- The `n` word addresses from `base` up. -/
def wordsFrom (base n : Nat) : List Nat :=
  (List.range n).map (fun i => base + 4 * i)

end Sys2Proof.Machine
end

