-- ==== Sys2Proof/Machine/Rotation.lean ====
section
/-! DEFINITION. Frame rotation (chapter 4) and slots leaving and re-entering use (3.7): the requests taken at
a channel, each as a whole (R44), and the meanings of the nine window accesses and of the notices. -/

namespace Sys2Proof.Machine

open Sys2Proof

/-! ## Channel records -/

def Channel.slot (ch : Channel) (i : Fin 8) : Slot := ch.slots.get i

def Channel.setSlot (ch : Channel) (i : Fin 8) (x : Slot) : Channel :=
  { ch with slots := ch.slots.set i x }

/-- A slot that becomes FREE: no frame number, no commit time, an empty written set (R35, R48, R71). -/
def Slot.freed (x : Slot) : Slot :=
  { x with state := .free, frame := none, commitTime := none, written := [] }

/-- A slot opened for filling (R60, R62): its written set starts empty, a dropped frame's number goes (R61). -/
def Slot.opened (x : Slot) : Slot :=
  { x with state := .filling, frame := none, commitTime := none, written := [] }

/-- Whether the reader holds this slot. -/
def Channel.holds (ch : Channel) (i : Fin 8) : Bool :=
  ch.held == .slot i

/-- The held slot when it is COMMITTED (R48, R61). -/
def Channel.heldCommitted (ch : Channel) : Option (Fin 8) :=
  match ch.held with
  | .slot i => if (ch.slot i).state = .committed then some i else none
  | .none => none
  | .substitute => none

/-- A slot the writer may take as FREE: it exists, is valid, FREE and not held (R60, R62). -/
def Channel.takable (ch : Channel) (i : Fin 8) : Bool :=
  decide (i.val < ch.config.depth) && ch.valid i && (ch.slot i).state == .free && !ch.holds i

/-- A frame a LATEST open may drop: valid, COMMITTED and not held. By the law of R60 it is the newest. -/
def Channel.droppable (ch : Channel) (i : Fin 8) : Bool :=
  decide (i.val < ch.config.depth) && ch.valid i && (ch.slot i).state == .committed && !ch.holds i

/-- The copy's end at the channel: the copy state NONE and the copy-source mark cleared (R92, R94, R95). -/
def Channel.copyEnded (ch : Channel) : Channel :=
  { ch with copy := .none, slots := ch.slots.map (fun x => { x with copySource := false }) }

/-- The slot with the copy-source mark (R87). -/
def Channel.copySourceSlot (ch : Channel) : Option (Fin 8) :=
  slotIds.find? (fun i => (ch.slot i).copySource)

/-! ## Opening (R60 to R64) -/

/-- The slot becomes FILLING and the filling field names it. -/
def Channel.startFilling (ch : Channel) (i : Fin 8) : Channel :=
  { ch.setSlot i (ch.slot i).opened with filling := some i }

/-- The source of a carry-forward copy, if the open of a FREE slot sets one up (R64): the newest slot, when
it is valid. -/
def Channel.carrySource (ch : Channel) : Option (Fin 8) :=
  if ch.config.carry then
    match ch.newest with
    | some n => if ch.valid n then some n else none
    | none => none
  else none

/-- A drop (R61): the newest becomes the held slot when that is COMMITTED, otherwise none. -/
def Channel.dropFrame (ch : Channel) (i : Fin 8) : Channel :=
  { ch.startFilling i with newest := ch.heldCommitted, dropped := satInc ch.dropped }

/-- An open of a FREE slot, with its copy when R64 sets one up. -/
def openFree (c : ChanId) (ch : Channel) (i : Fin 8) (s : State) : State :=
  match ch.carrySource with
  | none => s.setChan c (some (ch.startFilling i))
  | some n =>
    let ch1 := ch.startFilling i
    { s.setChan c (some { ch1.setSlot n { ch1.slot n with copySource := true } with copy := .queued }) with
      copy := { s.copy with queue := s.copy.queue ++ [c] } }

/-- An open (R60, R62): the lowest valid FREE slot not held; failing that, in LATEST, a drop. `none` when it
is refused. -/
def openSlot (c : ChanId) (ch : Channel) (s : State) : Option State :=
  match slotIds.find? ch.takable with
  | some i => some (openFree c ch i s)
  | none =>
    match ch.config.mode with
    | .queue => none
    | .latest =>
      match slotIds.find? ch.droppable with
      | some i => some (raiseChannel c .dropped (s.setChan c (some (ch.dropFrame i))))
      | none => none

/-- A refused open (R63): BLOCKED to the writer, the blocked counter and the BLOCKED event. -/
def refuseOpen (p : Port) (a : Access) (c : ChanId) (ch : Channel) (s : State) : State :=
  answerFault p a .blocked
    (raiseChannel c .blocked (s.setChan c (some { ch with blocked := satInc ch.blocked })))

/-- A writer's write with its filling slot: the one there is, or one opened for it (R59, R69). -/
def withFilling (p : Port) (a : Access) (c : ChanId) (ch : Channel) (s : State)
    (k : Channel → Fin 8 → State → State) : State :=
  match ch.filling with
  | some i => k ch i s
  | none =>
    match openSlot c ch s with
    | none => refuseOpen p a c ch s
    | some s1 =>
      match s1.chan c with
      | some ch1 =>
        match ch1.filling with
        | some i => k ch1 i s1
        | none => s1
      | none => s1

/-! ## Data writes (R59) -/

/-- The offsets of every word of the access join the written set (R59). -/
def addOffsets (off n : Nat) (set : List Nat) : List Nat :=
  (List.range n).foldl (fun acc i => insertOffset (off + i) acc) set

/-- A data write into the filling slot: in a carry-forward channel its offsets are claimed, then its
operation is put. -/
def writeInto (p : Port) (a : Access) (c : ChanId) (off : Nat) (ch : Channel) (i : Fin 8) (s : State) : State :=
  let x := ch.slot i
  let ch1 :=
    if ch.config.carry then ch.setSlot i { x with written := addOffsets off (wordCount a) x.written } else ch
  putWords p a (wordsFrom (ch.config.slotAddr i + 4 * off) (wordCount a)) (accessData a) .plain
    (s.setChan c (some ch1))

def takeDataWrite (p : Port) (a : Access) (c : ChanId) (ch : Channel) (off : Nat) (s : State) : State :=
  withFilling p a c ch s (writeInto p a c off)

/-! ## Writer reads (R65, R66, R91) -/

/-- The most recently committed frame still present: the newest slot, or the tail of the committed list. -/
def Channel.lastFrame (ch : Channel) : Option (Fin 8) :=
  match ch.config.mode with
  | .latest => ch.newest
  | .queue => ch.committed.getLast?

/-- The slot that serves word offset `j` of a writer read while slot `i` is filling (R65, R91). -/
def Channel.writerReadSlot (ch : Channel) (i : Fin 8) (j : Nat) : Fin 8 :=
  match ch.copy with
  | .none => i
  | .queued => if (ch.slot i).written.contains j then i else ch.copySourceSlot.getD i
  | .copying next =>
    if (ch.slot i).written.contains j || decide (j < next) then i else ch.copySourceSlot.getD i

/-- The addresses of a writer read with a filling slot, word by word. -/
def Channel.writerReadAddrs (ch : Channel) (i : Fin 8) (off n : Nat) : List Nat :=
  (List.range n).map (fun k => ch.config.slotAddr (ch.writerReadSlot i (off + k)) + 4 * (off + k))

def takeWriterRead (p : Port) (a : Access) (_c : ChanId) (ch : Channel) (off : Nat) (s : State) : State :=
  match ch.filling with
  | some i => putWords p a (ch.writerReadAddrs i off (wordCount a)) [] .plain s
  | none =>
    match ch.lastFrame with
    | some i => putWords p a (wordsFrom (ch.config.slotAddr i + 4 * off) (wordCount a)) [] .plain s
    | none => answerZero p a s

def takeWriterTagRead (p : Port) (a : Access) (_c : ChanId) (ch : Channel) (_off : Nat) (s : State) : State :=
  match ch.lastFrame with
  | some i => putWords p a [ch.config.slotAddr i] [] .plain s
  | none => answerZero p a s

/-! ## Commit and discard (R67 to R73) -/

/-- A committed slot takes its place among the frames (R71, R72). -/
def Channel.placeFrame (ch : Channel) (i : Fin 8) : Channel :=
  match ch.config.mode with
  | .queue => { ch with committed := ch.committed ++ [i] }
  | .latest =>
    match ch.newest with
    | some n =>
      if ch.holds n then { ch with newest := some i }
      else { ch.setSlot n (ch.slot n).freed with newest := some i }
    | none => { ch with newest := some i }

/-- The filling slot becomes COMMITTED with the next frame number and the time (R70). -/
def Channel.commitSlot (ch : Channel) (i : Fin 8) (now : BitVec 32) : Channel :=
  { ch.setSlot i
      { ch.slot i with state := .committed, frame := some (ch.frames + 1), commitTime := some now, written := [] }
    with filling := none, frames := ch.frames + 1, lastCommit := some now }

/-- The freshness timer restarts and a STALE channel becomes LIVE (R70, R105, R107). -/
def Channel.refreshed (ch : Channel) : Channel :=
  { ch with deadline := startUnlessZero ch.config.freshness, state := .live }

/-- Carrying out a commit, but for its event and its word 0 write (R70). -/
def Channel.committing (ch : Channel) (i : Fin 8) (now : BitVec 32) : Channel :=
  ((ch.placeFrame i).commitSlot i now).refreshed

/-- Carrying out a commit (R70): COMMIT to the reader's line, and the word 0 write put for the writer. -/
def carryOutCommit (p : Port) (a : Access) (c : ChanId) (ch : Channel) (i : Fin 8) (tag : Word) (s : State) :
    State :=
  putWords p a [ch.config.slotAddr i] [tag] (.commitWord c i)
    (raiseChannel c .commit (s.setChan c (some (ch.committing i s.msCount))))

/-- A commit with its filling slot: carried out at once, or waiting for the copy (R69). -/
def commitInto (p : Port) (a : Access) (c : ChanId) (ch : Channel) (i : Fin 8) (s : State) : State :=
  match ch.copy with
  | .none => carryOutCommit p a c ch i (beatData a 0) s
  | .queued | .copying _ =>
    (s.setChan c (some { ch with waiting := some (beatData a 0) })).setPhase p (.waitingCommit a c)

def takeCommit (p : Port) (a : Access) (c : ChanId) (ch : Channel) (_off : Nat) (s : State) : State :=
  withFilling p a c ch s (commitInto p a c)

/-- What an abort at the channel does at the engine: a QUEUED channel leaves the queue, an engine COPYING for
it is sent a notice (R95). -/
def abortAtEngine (c : ChanId) (copy : ChannelCopy) (s : State) : State :=
  match copy with
  | .none => s
  | .queued => { s with copy := { s.copy with queue := s.copy.queue.erase c } }
  | .copying _ => { s with copy := { s.copy with abortNotice := true } }

/-- The end of a filling without a frame: the slot FREE, the filling field none, no waiting commit, and the
copy ended (R47, R68, R94). -/
def Channel.fillingEnded (ch : Channel) : Channel :=
  match ch.filling with
  | some i => { (ch.setSlot i (ch.slot i).freed).copyEnded with filling := none, waiting := none }
  | none => ch

/-- A discard (R68). -/
def takeDiscard (p : Port) (a : Access) (c : ChanId) (ch : Channel) (_off : Nat) (s : State) : State :=
  match ch.filling with
  | some _ => answerOkay p a (abortAtEngine c ch.copy (s.setChan c (some ch.fillingEnded)))
  | none => answerOkay p a s

/-! ## The reader (R74 to R79, R109, R110) -/

/-- A LATEST release (R78; R49 for a slot that is invalid at its release). -/
def Channel.releaseLatest (ch : Channel) : Channel :=
  match ch.held with
  | .none => ch
  | .substitute => { ch with held := .none }
  | .slot i =>
    if !ch.valid i then
      { ch.setSlot i (ch.slot i).freed with
        held := .none, newest := if ch.newest = some i then none else ch.newest }
    else if ch.newest = some i then { ch with held := .none }
    else { ch.setSlot i (ch.slot i).freed with held := .none }

/-- A LATEST snapshot: the substitute image in a STALE channel of that policy, otherwise the newest slot, or
nothing (R74, R109). -/
def Channel.snapshotLatest (ch : Channel) : Channel :=
  if ch.state = .stale ∧ ch.config.policy = .substitute then { ch with held := .substitute }
  else
    match ch.newest with
    | some i => { ch with held := .slot i }
    | none => { ch with held := .none }

/-- A QUEUE snapshot with nothing held: the head of the committed list, or nothing (R75). -/
def Channel.snapshotQueue (ch : Channel) : Channel :=
  match ch.committed.head? with
  | some i => { ch with held := .slot i }
  | none => ch

/-- What a reader tag read does to the channel before it is served (R74, R75). -/
def Channel.tagSnapshot (ch : Channel) : Channel :=
  match ch.config.mode with
  | .latest => ch.releaseLatest.snapshotLatest
  | .queue => if ch.held = .none then ch.snapshotQueue else ch

/-- What a reader data read does to the channel before it is served: an implicit snapshot when nothing is
held (R76). -/
def Channel.dataSnapshot (ch : Channel) : Channel :=
  if ch.held = .none then
    match ch.config.mode with
    | .latest => ch.snapshotLatest
    | .queue => ch.snapshotQueue
  else ch

/-- Whether the word 0 write of a commit of this slot is outstanding (R73). -/
def commitOutstanding (p : Port) (c : ChanId) (i : Fin 8) (s : State) : Bool :=
  match (s.port (otherPort p)).phase with
  | .atArbiter _ op => op.tag == .commitWord c i
  | .granted _ op => op.tag == .commitWord c i
  | _ => false

/-- An empty read: zero and OKAY, and the empty counter (R77). -/
def emptyRead (p : Port) (a : Access) (c : ChanId) (ch : Channel) (s : State) : State :=
  answerZero p a (s.setChan c (some { ch with empty := satInc ch.empty }))

/-- A reader tag read of a slot: put at once, or kept back while a commit's word 0 write to that slot is
outstanding (R73). -/
def putTagRead (p : Port) (a : Access) (c : ChanId) (ch : Channel) (i : Fin 8) (s : State) : State :=
  if commitOutstanding p c i s then
    match s.bankOf (ch.config.slotAddr i) with
    | some b =>
      s.setPhase p (.keptBack a ⟨b, [ch.config.slotAddr i], false, a.size.val, 0, [], .plain⟩ c i)
    | none => answerFault p a .unavailable s
  else putWords p a [ch.config.slotAddr i] [] .plain s

def takeReaderTagRead (p : Port) (a : Access) (c : ChanId) (ch : Channel) (_off : Nat) (s : State) : State :=
  let ch1 := ch.tagSnapshot
  match ch1.held with
  | .none => emptyRead p a c ch1 s
  | .slot i => putTagRead p a c ch1 i (s.setChan c (some ch1))
  | .substitute => putWords p a [ch1.config.substitute.getD 0] [] .plain (s.setChan c (some ch1))

def takeReaderDataRead (p : Port) (a : Access) (c : ChanId) (ch : Channel) (off : Nat) (s : State) : State :=
  let ch1 := ch.dataSnapshot
  match ch1.held with
  | .none => emptyRead p a c ch1 s
  | .slot i =>
    putWords p a (wordsFrom (ch1.config.slotAddr i + 4 * off) (wordCount a)) [] .plain (s.setChan c (some ch1))
  | .substitute =>
    putWords p a (wordsFrom (ch1.config.substitute.getD 0 + 4 * off) (wordCount a)) [] .plain
      (s.setChan c (some ch1))

/-- A QUEUE release of the held slot (R79). -/
def Channel.releaseQueue (ch : Channel) (i : Fin 8) : Channel :=
  { ch.setSlot i (ch.slot i).freed with held := .none, committed := ch.committed.erase i }

/-- A reader tag write: a release, whatever its value (R78, R79). -/
def takeRelease (p : Port) (a : Access) (c : ChanId) (ch : Channel) (_off : Nat) (s : State) : State :=
  match ch.config.mode with
  | .latest => answerOkay p a (s.setChan c (some ch.releaseLatest))
  | .queue =>
    match ch.held with
    | .slot i => answerOkay p a (raiseChannel c .consumed (s.setChan c (some (ch.releaseQueue i))))
    | .none | .substitute => answerOkay p a s

/-! ## Taking a window access (R45, R57) -/

/-- The nine kinds of window access, by role, direction and the tag word. -/
inductive WindowKind where
  | writerDataWrite
  | writerDataRead
  | writerTagRead
  | commit
  | discard
  | readerTagRead
  | readerDataRead
  | readerDataWrite
  | release
  deriving DecidableEq, Repr

/-- The kind of an access: the writer's role and the reader's are told apart by the port alone (R57); a
writer's write from offset 0 is a discard or a commit by its value (R67). -/
def windowKind (cfg : ChannelConfig) (p : Port) (a : Access) (off : Nat) : WindowKind :=
  if p = cfg.writer then
    if a.write then
      if off = 0 then (if beatData a 0 = 0 then .discard else .commit) else .writerDataWrite
    else if off = 0 then .writerTagRead
    else .writerDataRead
  else if a.write then (if off = 0 then .release else .readerDataWrite)
  else if off = 0 then .readerTagRead
  else .readerDataRead

/-- A request's effect once it has passed the checks of R57. -/
abbrev WindowTake := Port → Access → ChanId → Channel → Nat → State → State

/-- A window access of one kind taken at its channel. A channel that was disabled meanwhile, or that is no
longer configured, answers CHANNEL_OFF (R45), and so does one whose window is now too short (log 12); then
come the checks of R57: FORM for a tag-word access that is not a single 4-byte access, ROLE for a reader's
write of data words. -/
def takeWindow (kind : WindowKind) (p : Port) (f : WindowTake) (s : State) : Option State :=
  match (s.port p).phase with
  | .atChannel a c off =>
    match s.chan c with
    | none => some (answerFault p a .channelOff s)
    | some ch =>
      if windowKind ch.config p a off = kind then
        if ch.state = .off then some (answerFault p a .channelOff s)
        else if ch.config.len < off + wordCount a then some (answerFault p a .channelOff s)
        else if off = 0 && !isSingleWord a then some (answerFault p a .form s)
        else if kind = .readerDataWrite then some (answerFault p a .role s)
        else some (f p a c ch off s)
      else none
  | _ => none

/-! ## Slots leaving use (R47 to R51) -/

/-- A waiting commit of a channel answered with a fault (R42, R47, R94). -/
def answerWaiting (p : Port) (c : ChanId) (f : FaultCode) (s : State) : State :=
  match (s.port p).phase with
  | .waitingCommit a c' => if c' = c then answerFault p a f s else s
  | _ => s

/-- A counter increased `n` times. -/
def satAdd {w : Nat} (x : BitVec w) : Nat → BitVec w
  | 0 => x
  | n + 1 => satInc (satAdd x n)

/-- A frame that is not held loses its slot's validity (R48). -/
def Channel.losesFrame (ch : Channel) (i : Fin 8) : Bool :=
  (ch.slot i).state == .committed && !ch.holds i

/-- The slots `gone` lose their frames: each becomes FREE and leaves the committed list; when the newest goes
it becomes the held slot if that is COMMITTED, otherwise none (R48). -/
def Channel.loseFrames (ch : Channel) (gone : List (Fin 8)) : Channel :=
  { ch with
    slots := ch.slots.mapIdx (fun i x => if gone.any (fun g => g.val == i) then x.freed else x)
    committed := ch.committed.filter (fun i => !gone.contains i)
    newest :=
      match ch.newest with
      | some n => if gone.contains n then ch.heldCommitted else some n
      | none => none
    lost := satAdd ch.lost gone.length }

/-- Whether the filling must be abandoned: its slot, or the source of its copy, is among `gone` (R47, R50). -/
def Channel.fillingLost (ch : Channel) (gone : List (Fin 8)) : Bool :=
  match ch.filling with
  | some i => gone.contains i || (ch.copy != .none && gone.any (fun g => (ch.slot g).copySource))
  | none => false

/-- The abandonment's effects outside the channel record: the engine, the waiting commit, ABANDONED (R47). -/
def abandonEffects (c : ChanId) (ch : Channel) (s : State) : State :=
  raiseChannel c .abandoned (answerWaiting ch.config.writer c .abandoned (abortAtEngine c ch.copy s))

/-- The slots `gone` of a LIVE or STALE channel become invalid, in one request: the filling is abandoned once,
frames not held are lost, held slots stay (R47 to R50). `ch` already has the new validity. -/
def slotsLeave (c : ChanId) (gone : List (Fin 8)) (ch : Channel) (s : State) : State :=
  let fillingLost := ch.fillingLost gone
  let ch1 := if fillingLost then ch.fillingEnded else ch
  let frames := gone.filter ch1.losesFrame
  let s1 := s.setChan c (some (if frames.isEmpty then ch1 else ch1.loseFrames frames))
  let s2 := if fillingLost then abandonEffects c ch s1 else s1
  if frames.isEmpty then s2 else raiseChannel c .lost s2

/-- The slots of a channel that are valid now. -/
def Channel.validSlots (ch : Channel) : List (Fin 8) :=
  slotIds.filter (fun i => decide (i.val < ch.config.depth) && ch.valid i)

/-- A leaving notice taken at a channel (R47, R145): every valid slot becomes invalid at once; at an OFF
channel only the validity changes. -/
def takeLeaving (c : ChanId) (s : State) : Option State :=
  match s.chan c with
  | none => none
  | some ch =>
    match ch.notices with
    | .leaving :: rest =>
      let ch1 := { ch with notices := rest, bankUp := false }
      if ch.state = .off then some (s.setChan c (some ch1)) else some (slotsLeave c ch.validSlots ch1 s)
    | .entering :: _ => none
    | [] => none

/-- An entering notice taken at a channel (R52): its slots that are not retired are valid again; a slot that
is not held is FREE already. -/
def takeEntering (c : ChanId) (s : State) : Option State :=
  match s.chan c with
  | none => none
  | some ch =>
    match ch.notices with
    | .entering :: rest => some (s.setChan c (some { ch with notices := rest, bankUp := true }))
    | .leaving :: _ => none
    | [] => none

/-! ## Meanings -/

/-- WRITER_DATA_WRITE (R57 to R64). -/
def execWriterDataWrite (p : Port) (s : State) : Host.Outcome State Fault Refusal :=
  .next (event s (takeWindow .writerDataWrite p takeDataWrite))

/-- WRITER_DATA_READ (R57, R65, R91). -/
def execWriterDataRead (p : Port) (s : State) : Host.Outcome State Fault Refusal :=
  .next (event s (takeWindow .writerDataRead p takeWriterRead))

/-- WRITER_TAG_READ (R57, R66). -/
def execWriterTagRead (p : Port) (s : State) : Host.Outcome State Fault Refusal :=
  .next (event s (takeWindow .writerTagRead p takeWriterTagRead))

/-- COMMIT (R57, R67, R69 to R73). -/
def execCommit (p : Port) (s : State) : Host.Outcome State Fault Refusal :=
  .next (event s (takeWindow .commit p takeCommit))

/-- DISCARD (R57, R67, R68). -/
def execDiscard (p : Port) (s : State) : Host.Outcome State Fault Refusal :=
  .next (event s (takeWindow .discard p takeDiscard))

/-- READER_TAG_READ (R57, R73 to R75, R109, R110). -/
def execReaderTagRead (p : Port) (s : State) : Host.Outcome State Fault Refusal :=
  .next (event s (takeWindow .readerTagRead p takeReaderTagRead))

/-- READER_DATA_READ (R57, R76, R77, R109 to R111). -/
def execReaderDataRead (p : Port) (s : State) : Host.Outcome State Fault Refusal :=
  .next (event s (takeWindow .readerDataRead p takeReaderDataRead))

/-- RELEASE (R57, R78, R79). -/
def execRelease (p : Port) (s : State) : Host.Outcome State Fault Refusal :=
  .next (event s (takeWindow .release p takeRelease))

/-- READER_DATA_WRITE (R57): answered ROLE, with no rotation step. -/
def execReaderDataWrite (p : Port) (s : State) : Host.Outcome State Fault Refusal :=
  .next (event s (takeWindow .readerDataWrite p (fun _ _ _ _ _ t => t)))

/-- LEAVING_NOTICE (R47 to R51). -/
def execLeavingNotice (c : ChanId) (s : State) : Host.Outcome State Fault Refusal :=
  .next (event s (takeLeaving c))

/-- ENTERING_NOTICE (R52). -/
def execEnteringNotice (c : ChanId) (s : State) : Host.Outcome State Fault Refusal :=
  .next (event s (takeEntering c))

end Sys2Proof.Machine
end

