-- ==== Sys2Proof/Machine/Copy.lean ====
section
/-! DEFINITION. The copy engine (chapter 5): taking the head of the queue, dealing with offsets, the ends of
its operations, its reports and the abort notice. -/

namespace Sys2Proof.Machine

open Sys2Proof

def State.setEngine (s : State) (e : EngineState) : State :=
  { s with copy := { s.copy with state := e } }

/-- The engine returns to IDLE with no current copy; a notice about that copy is spent (R95, R96). -/
def engineIdle (s : State) : State :=
  { s with copy := { s.copy with state := .idle, abortNotice := false } }

/-- Whether the channel is still COPYING (R89, R92, R94). -/
def Channel.isCopying (ch : Channel) : Bool :=
  match ch.copy with
  | .copying _ => true
  | .none => false
  | .queued => false

/-- Whether the copy's channel is still COPYING for it. The engine has one current copy, so a channel that
is COPYING is COPYING for that one (R89). -/
def jobCopying (s : State) (j : CopyJob) : Bool :=
  match s.chan j.channel with
  | some ch => ch.isCopying
  | none => false

/-- Whether the writer has claimed an offset of the copy's target (R88, R89). -/
def jobClaimed (s : State) (j : CopyJob) (k : Nat) : Bool :=
  match s.chan j.channel with
  | some ch => (ch.slot j.target).written.contains k
  | none => false

/-- The channel's next offset follows the engine's while the channel is COPYING (R88, R99). -/
def showNext (j : CopyJob) (s : State) : State :=
  match s.chan j.channel with
  | some ch => if ch.isCopying then s.setChan j.channel (some { ch with copy := .copying j.next }) else s
  | none => s

/-- The first offset from `k` on that is not claimed, looking at `fuel` offsets (R88). -/
def skipClaimed (s : State) (j : CopyJob) : Nat → Nat → Nat
  | 0, k => k
  | fuel + 1, k =>
    if j.len ≤ k then k
    else if jobClaimed s j k then skipClaimed s j fuel (k + 1)
    else k

/-- The engine deals with offsets from the copy's next one (R88): claimed ones are skipped; at L it reports
completion; otherwise it puts the read of the source word, which fails the copy when its bank is not in
service (R94, R122). -/
def copyAdvance (j : CopyJob) (s : State) : State :=
  let j1 := { j with next := skipClaimed s j j.len j.next, flight := .none, word := none }
  let s1 := showNext j1 s
  if j1.len ≤ j1.next then s1.setEngine (.ending j1 .completion)
  else if s1.inService j1.bank then s1.setEngine (.active { j1 with flight := .readWaiting })
  else s1.setEngine (.ending j1 .failure)

/-- The word at the next offset has been dealt with; the engine goes on (R88, R89). -/
def copyNext (j : CopyJob) (s : State) : State :=
  copyAdvance { j with next := j.next + 1 } s

/-- A copy just taken: ACTIVE with nothing in flight (R87), or, when every offset is in the written set already,
at its end at once (R88). -/
def beginCopy (j : CopyJob) (s : State) : State :=
  if j.len ≤ skipClaimed s j j.len j.next then copyAdvance j s else s.setEngine (.active j)

/-- The engine takes the head of the queue (R87). -/
def takeHead (s : State) : Option State :=
  match s.copy.state, s.copy.queue with
  | .idle, c :: rest =>
    match s.chan c with
    | some ch =>
      match ch.filling, ch.copySourceSlot, s.bankOf ch.config.slotBase with
      | some t, some src, some b =>
        let s1 : State :=
          { s.setChan c (some { ch with copy := .copying 1 }) with
            copy := { s.copy with queue := rest, abortNotice := false } }
        some (beginCopy
          ⟨c, src, t, 1, .none, none, ch.config.len, b, ch.config.slotAddr src, ch.config.slotAddr t⟩ s1)
      | _, _, _ => none
    | none => none
  | _, _ => none

/-- The good or poisoned word a copy read gives (R90), or none after a TIMEOUT. -/
def copiedWord : ReadOut → Option CopiedWord
  | .data d => some ⟨d, false⟩
  | .uncorrectable d => some ⟨d, true⟩
  | .poisoned d => some ⟨d, true⟩
  | .timeout => none

/-- The physical address of the copy's source word, and of its target word (R30, R88). -/
def CopyJob.sourceAddr (j : CopyJob) : Nat := j.sourceBase + 4 * j.next

def CopyJob.targetAddr (j : CopyJob) : Nat := j.targetBase + 4 * j.next

/-- The write of a copied word: good code, or a poison write for a bad source word (R90, R118). -/
def copyStore (j : CopyJob) (s : State) : State :=
  match j.word with
  | some w => if w.poisoned then storePoison j.targetAddr w.value s else storeWord j.bank j.targetAddr w.value s
  | none => s

/-- A copy read of an ACTIVE engine has ended with a value: the write is put (R88), or the copy fails when
the bank has left service (R94, R122). -/
def putCopyWrite (j : CopyJob) (w : CopiedWord) (s : State) : State :=
  let j1 := { j with word := some w }
  if s.inService j.bank then s.setEngine (.active { j1 with flight := .writeWaiting })
  else s.setEngine (.ending { j1 with flight := .none } .failure)

/-- The memory access of the copy engine's operation that holds the memory port, under a budget. -/
def copyRun (j : CopyJob) (bud : Option Nat) (s : State) : ReadOut × State :=
  match j.flight with
  | .reading =>
    let r := readAccess .copy j.bank j.sourceAddr bud s
    (r.1, r.2.2)
  | .writing =>
    match spend bud with
    | none => (.timeout, s)
    | some _ => (.data 0, copyStore j s)
  | .none | .readWaiting | .writeWaiting | .timedOut => (.timeout, s)

/-- The end of the engine's operation: the write follows the read, the next offset follows the write; a
DRAINING engine becomes IDLE (R88, R95). -/
def copyEnded (s : State) (out : ReadOut) (t : State) : Option State :=
  match s.copy.state with
  | .active j =>
    match j.flight, copiedWord out with
    | .reading, some w => some (putCopyWrite j w t)
    | .writing, some _ => some (copyNext j t)
    | _, _ => none
  | .draining _ => some (engineIdle t)
  | .idle => none
  | .ending _ _ => none

/-- An operation of the engine that ended in TIMEOUT: an ACTIVE engine reports failure, a DRAINING one becomes
IDLE (R94, R95). -/
def copyTimedOut (s : State) : Option State :=
  match s.copy.state with
  | .active j => if j.flight = .timedOut then some (s.setEngine (.ending { j with flight := .none } .failure)) else none
  | .draining j => if j.flight = .timedOut then some (engineIdle s) else none
  | .idle => none
  | .ending _ _ => none

/-- COPY_OPERATION_END: the operation that holds the memory port ends, or the TIMEOUT that ended it is taken. -/
def copyOperationEnd (s : State) : Option State :=
  match s.arbiter.busy with
  | some ⟨.copy, _⟩ =>
    match s.copy.state.job with
    | some j =>
      let r := copyRun j none (s.setBusy none)
      copyEnded s r.1 r.2
    | none => none
  | _ => copyTimedOut s

/-- A waiting commit carried out with its tag, in the completion's own request (R92). -/
def completeWaiting (c : ChanId) (ch : Channel) (s : State) : State :=
  match ch.filling, ch.waiting, (s.port ch.config.writer).phase with
  | some i, some tag, .waitingCommit a c' =>
    if c' = c then carryOutCommit ch.config.writer a c { ch with waiting := none } i tag s
    else s.setChan c (some ch)
  | _, _, _ => s.setChan c (some ch)

/-- The completion taken at the channel (R92): no effect unless the channel is COPYING. -/
def takeCompletion (s : State) : Option State :=
  match s.copy.state with
  | .ending j .completion =>
    match s.chan j.channel with
    | some ch =>
      if ch.isCopying then some (completeWaiting j.channel ch.copyEnded (engineIdle s))
      else some (engineIdle s)
    | none => some (engineIdle s)
  | .ending _ .failure => none
  | .idle => none
  | .active _ => none
  | .draining _ => none

/-- The failure taken at the channel (R94): the filling is abandoned, unless the channel is not COPYING. -/
def takeFailure (s : State) : Option State :=
  match s.copy.state with
  | .ending j .failure =>
    match s.chan j.channel with
    | some ch =>
      if ch.isCopying then
        some (raiseChannel j.channel .abandoned
          (answerWaiting ch.config.writer j.channel .abandoned
            ((engineIdle s).setChan j.channel (some ch.fillingEnded))))
      else some (engineIdle s)
    | none => some (engineIdle s)
  | .ending _ .completion => none
  | .idle => none
  | .active _ => none
  | .draining _ => none

/-- The abort notice received (R95, R96): an ACTIVE engine drains the operation in flight or becomes IDLE; an
ENDING one becomes IDLE when its report has been taken. -/
def takeAbortNotice (s : State) : Option State :=
  if s.copy.abortNotice then
    let s1 : State := { s with copy := { s.copy with abortNotice := false } }
    match s.copy.state with
    | .active j => if j.flight = .none then some (engineIdle s) else some (s1.setEngine (.draining j))
    | .ending _ _ => some s1
    | .draining _ => some s1
    | .idle => some s1
  else none

/-- COPY_TAKE_HEAD (R87, R88). -/
def execCopyTakeHead (s : State) : Host.Outcome State Fault Refusal :=
  .next (event s takeHead)

/-- COPY_OPERATION_END (R88 to R90, R94, R95). -/
def execCopyOperationEnd (s : State) : Host.Outcome State Fault Refusal :=
  .next (event s copyOperationEnd)

/-- COPY_COMPLETION (R92). -/
def execCopyCompletion (s : State) : Host.Outcome State Fault Refusal :=
  .next (event s takeCompletion)

/-- COPY_FAILURE (R94). -/
def execCopyFailure (s : State) : Host.Outcome State Fault Refusal :=
  .next (event s takeFailure)

/-- COPY_ABORT_NOTICE (R95, R96). -/
def execCopyAbortNotice (s : State) : Host.Outcome State Fault Refusal :=
  .next (event s takeAbortNotice)

end Sys2Proof.Machine
end

