-- ==== Sys2Proof/Machine/Scrub.lean ====
section
/-! DEFINITION. The scrubber (8.4): the walk over the eligible memory, its pacing, and how it takes the
departure and the return of a bank. -/

namespace Sys2Proof.Machine

open Sys2Proof

/-! ## Eligible banks (R137, R138) -/

/-- An eligible bank: configured, check code on, IN_SERVICE (R137). -/
def State.eligible (s : State) (b : BankId) : Bool :=
  s.isProtected b && s.inService b

/-- A configured bank's base. -/
def State.bankBase (s : State) (b : BankId) : Nat :=
  match (s.bank b).config with
  | some cfg => cfg.base
  | none => 0

/-- The smallest of a list of numbers. -/
def smallest : List Nat → Option Nat
  | [] => none
  | x :: xs =>
    match smallest xs with
    | some y => some (if y < x then y else x)
    | none => some x

/-- The base of the lowest eligible bank at or above an address. -/
def State.eligibleFrom (s : State) (lo : Nat) : Option Nat :=
  smallest (((bankIds.filter s.eligible).map s.bankBase).filter (fun x => decide (lo ≤ x)))

/-! ## Moving the position -/

def State.setScrub (s : State) (x : Scrubber) : State :=
  { s with scrub := x }

/-- A wrap to the lowest eligible bank: one more pass and SCRUB_PASS on both lines (R138, R141). With no
eligible bank left the position is none. -/
def scrubWrap (s : State) : State :=
  match s.eligibleFrom 0 with
  | some a => raiseBoth .scrubPass (s.setScrub { s.scrub with position := some a, passes := satInc s.scrub.passes })
  | none => s.setScrub { s.scrub with position := none }

/-- On to the lowest eligible bank at or above an address, or around by a wrap. -/
def scrubOnward (lo : Nat) (s : State) : State :=
  match s.eligibleFrom lo with
  | some a => s.setScrub { s.scrub with position := some a }
  | none => scrubWrap s

/-- Whether a word is the last of a bank. -/
def Bank.lastWord (x : Bank) (addr : Nat) : Bool :=
  match x.config with
  | some cfg => addr + 4 == cfg.base + cfg.size
  | none => false

/-- The advance after a read of a word of bank `b`, made only while the position still names that word
(R138). -/
def scrubAdvance (b : BankId) (addr : Nat) (s : State) : State :=
  if s.scrub.position = some addr then
    if (s.bank b).lastWord addr then scrubOnward (addr + 4) s
    else s.setScrub { s.scrub with position := some (addr + 4) }
  else s

/-! ## Phases -/

/-- What a RUNNING scrubber enters when it may go on: NO_BANK, REQUESTING at interval 0, or PACING (R138,
R139, R141). -/
def scrubGoOn (x : Scrubber) : Scrubber :=
  if x.position.isNone then { x with state := .running .noBank, timer := .stopped }
  else if x.interval = 0 then { x with state := .running .requesting, timer := .stopped }
  else { x with state := .running .pacing, timer := startTimer x.interval.toNat }

/-- A scrubber that starts RUNNING: REQUESTING at once, whatever the interval, or NO_BANK (R137, R142). -/
def scrubStarted (x : Scrubber) : Scrubber :=
  { x with state := .running (if x.position.isNone then .noBank else .requesting), timer := .stopped }

/-- The phase after the position was moved by a departure (R141): REQUESTING enters PACING, a position that
became none stops the timer and gives NO_BANK, READING runs on. -/
def scrubAfterMove (x : Scrubber) : Scrubber :=
  match x.state with
  | .stopped => x
  | .running .reading => x
  | .running .noBank => x
  | .running .pacing => if x.position.isNone then { x with state := .running .noBank, timer := .stopped } else x
  | .running .requesting =>
    if x.position.isNone then { x with state := .running .noBank, timer := .stopped }
    else { x with state := .running .pacing, timer := startTimer x.interval.toNat }

/-- Whether the position lies in a bank. -/
def State.scrubIn (s : State) (b : BankId) : Bool :=
  match s.scrub.position with
  | some a => (s.bank b).covers a
  | none => false

/-- The departure of an eligible bank, whose state has just changed (R141). -/
def scrubDeparture (b : BankId) (s : State) : State :=
  if s.scrubIn b then
    let t := scrubOnward (s.bankBase b) s
    t.setScrub (scrubAfterMove t.scrub)
  else s

/-- A bank that has become eligible again (R141). -/
def scrubReturn (b : BankId) (s : State) : State :=
  if s.scrub.position.isNone then
    let x := { s.scrub with position := some (s.bankBase b) }
    s.setScrub (if x.state = .running .noBank then scrubGoOn x else x)
  else s

/-! ## The end of a scrub read -/

/-- The port whose SCRUB_STOP is EXECUTING: it waits for the read in flight (R142). -/
def stopWaiting (s : State) : Option Port :=
  [Port.port0, Port.port1].find? (fun p =>
    match (s.command p).state with
    | .executing w => commandCode w == 0x0C
    | .idle => false
    | .pending _ _ => false)

/-- After the advance of a scrub read (R138, R141, R142). -/
def scrubResume (s : State) : State :=
  if s.scrub.state = .running .reading then
    match stopWaiting s with
    | some p => endCommand p .done (s.setScrub { s.scrub with state := .stopped, timer := .stopped })
    | none => s.setScrub (scrubGoOn s.scrub)
  else s

/-- The end of a scrub read at the scrubber. During LOADING it takes no advance (R143). -/
def scrubReadEnded (b : BankId) (addr : Nat) (s : State) : State :=
  if s.device = .loading then s else scrubResume (scrubAdvance b addr s)

/-- SCRUB_READ_END: the read that holds the memory port ends (R140), or the TIMEOUT that ended it is taken. -/
def scrubReadEnd (s : State) : Option State :=
  match s.arbiter.busy with
  | some ⟨.scrub b addr, _⟩ =>
    some (scrubReadEnded b addr (readAccess .scrub b addr none (s.setBusy none)).2.2)
  | _ =>
    match s.scrub.timedOut with
    | some addr =>
      match s.bankOf addr with
      | some b => some (scrubReadEnded b addr (s.setScrub { s.scrub with timedOut := none }))
      | none => none
    | none => none

/-- SCRUB_INTERVAL_EXPIRY: the read of the word at the position is put (R139). -/
def scrubExpiry (s : State) : Option State :=
  if s.scrub.state = .running .pacing ∧ s.scrub.timer = .due then
    some (s.setScrub { s.scrub with state := .running .requesting, timer := .stopped })
  else none

/-- SCRUB_INTERVAL_EXPIRY (R139). -/
def execScrubIntervalExpiry (s : State) : Host.Outcome State Fault Refusal :=
  .next (event s scrubExpiry)

/-- SCRUB_READ_END (R138 to R142). -/
def execScrubReadEnd (s : State) : Host.Outcome State Fault Refusal :=
  .next (event s scrubReadEnd)

end Sys2Proof.Machine
end

