-- ==== Sys2Proof/Machine/Health.lean ====
section
/-! DEFINITION. Bank health (chapter 9): departures from service and entries into it, the retry and probe
sequence, and the three bank commands. -/

namespace Sys2Proof.Machine

open Sys2Proof

/-- The bank that holds the BCB. -/
def State.bcbBank (s : State) : Option BankId :=
  s.bankOf s.bcbBase

/-- Whether a channel's slot area lies in a bank. -/
def Bank.holdsSlots (x : Bank) (ch : Channel) : Bool :=
  x.covers ch.config.slotBase

/-- A notice sent to every configured channel whose slot area lies in the bank (R145, R151). -/
def notifyChannels (b : BankId) (n : Notice) (s : State) : State :=
  { s with
    channels := s.channels.map (fun e =>
      match e with
      | some ch => if (s.bank b).holdsSlots ch then some { ch with notices := ch.notices ++ [n] } else some ch
      | none => none) }

/-! ## Withdrawal of the waiting requests of a bank (R122) -/

def withdrawPort (b : BankId) (p : Port) (s : State) : State :=
  match (s.port p).phase with
  | .atArbiter a op => if op.bank = b then endPortOp p a op unavailableResult s else s
  | _ => s

/-- Whether an operation of the copy engine waits at the arbiter. -/
def CopyJob.waits (j : CopyJob) : Bool :=
  match j.flight with
  | .readWaiting => true
  | .writeWaiting => true
  | .none => false
  | .reading => false
  | .writing => false
  | .timedOut => false

/-- A requester's pass-over count is 0 after its request was granted or withdrawn (R121). -/
def clearCopyPass (s : State) : State :=
  { s with arbiter := { s.arbiter with copyPass := 0 } }

def clearMirrorPass (s : State) : State :=
  { s with arbiter := { s.arbiter with mirrorPass := 0 } }

/-- The copy engine's waiting operation answered UNAVAILABLE: an ACTIVE engine fails its copy, a DRAINING one
becomes IDLE (R94, R95). -/
def withdrawCopy (b : BankId) (s : State) : State :=
  match s.copy.state with
  | .active j =>
    if j.waits ∧ j.bank = b then clearCopyPass (s.setEngine (.ending { j with flight := .none } .failure)) else s
  | .draining j => if j.waits ∧ j.bank = b then clearCopyPass (engineIdle s) else s
  | .idle => s
  | .ending _ _ => s

/-- The mirror writer's waiting request withdrawn; its offset rejoins the set (R160). -/
def withdrawMirror (b : BankId) (s : State) : State :=
  match s.mirror.request with
  | .waiting off =>
    if s.bcbBank = some b then clearMirrorPass (markDirty off { s with mirror := { s.mirror with request := .none } })
    else s
  | .none => s
  | .inFlight _ => s
  | .timedOut _ => s

/-- The scrubber's part of a departure and of an entry: it concerns banks with the check code (R137, R141). -/
def scrubberTakes (b : BankId) (f : BankId → State → State) (s : State) : State :=
  if s.isProtected b then f b s else s

/-! ## Leaving service (R145) -/

/-- The changes a departure makes outside the bank's record. Of two waiting port requests port 0's is answered first
(log 39). -/
def departureEffects (b : BankId) (s : State) : State :=
  notifyChannels b .leaving
    (scrubberTakes b scrubDeparture
      (withdrawMirror b (withdrawCopy b (withdrawPort b .port1 (withdrawPort b .port0
        { s with stormReports := s.stormReports.filter (fun x => x != b) })))))

/-- A bank's record as it becomes FENCED or RETRY_WAIT with a new cause (R145, R150, R152). -/
def Bank.failed (x : Bank) (service : Service) (cause : FaultCause) (timer : Timer) (now : BitVec 32) : Bank :=
  { x with service := service, cause := cause, faultTime := some now, retryTimer := timer }

/-- A departure into FENCED (R145 to R147, R152). -/
def departFenced (b : BankId) (cause : FaultCause) (s : State) : State :=
  raiseBoth .bankFenced
    (departureEffects b (s.setBank b ((s.bank b).failed .fenced cause .stopped s.msCount)))

/-- A departure into RETRY_WAIT on a TIMEOUT, with the retry timer started (R145, R146). -/
def departRetry (b : BankId) (period : Nat) (s : State) : State :=
  raiseBoth .bankRetry
    (departureEffects b (s.setBank b ((s.bank b).failed .retryWait .timeout (startTimer period) s.msCount)))

/-- A TIMEOUT report taken: a fault only when the bank is IN_SERVICE (R146). -/
def timeoutFault (b : BankId) (s : State) : State :=
  if s.inService b then
    match (s.bank b).config with
    | some cfg =>
      match cfg.retryMode with
      | .off => departFenced b .timeout s
      | .limited => departRetry b cfg.retryPeriod s
      | .unlimited => departRetry b cfg.retryPeriod s
    | none => s
  else s

/-- TIMEOUT_REPORT: the oldest report of the bank is taken. -/
def timeoutReport (b : BankId) (s : State) : Option State :=
  if s.timeoutReports.contains b then
    some (timeoutFault b { s with timeoutReports := s.timeoutReports.erase b })
  else none

/-- STORM: the report is taken (R147). -/
def stormReport (b : BankId) (s : State) : Option State :=
  if s.stormReports.contains b then
    let t : State := { s with stormReports := s.stormReports.erase b }
    some (if t.inService b then departFenced b .storm t else t)
  else none

/-! ## The retry and probe sequence (R148 to R151) -/

/-- The expiry of the retry timer taken at the unit: PROBING, and the probe read is put (R148). -/
def retryExpiry (b : BankId) (s : State) : Option State :=
  if (s.bank b).service = .retryWait ∧ (s.bank b).retryTimer = .due then
    some (s.setBank b { s.bank b with service := .probing, retryTimer := .stopped, probe := .waiting })
  else none

/-- The address of a bank's probe word (R148). -/
def BankConfig.probeAddr (cfg : BankConfig) : Nat :=
  cfg.base + 4 * cfg.probeOffset

/-- The retry counter increased by one, at most 15. -/
def bumpRetries (n : Fin 16) : Fin 16 :=
  if h : n.val + 1 < 16 then ⟨n.val + 1, h⟩ else n

/-- A failed probe whose bank is tried again after the period (R150). -/
def probeRetry (b : BankId) (period : Nat) (rfull : Bool) (s : State) : State :=
  raiseBoth .bankRetry
    (s.setBank b { s.bank b with
      service := .retryWait
      retries := bumpRetries (s.bank b).retries
      rfull := rfull
      retryTimer := startTimer period })

/-- A failed probe that fences its bank; not a departure (R150). -/
def probeFences (b : BankId) (s : State) : State :=
  raiseBoth .bankFenced (s.setBank b ((s.bank b).failed .fenced .timeout .stopped s.msCount))

/-- A failed probe of a PROBING bank, by the retry mode and RFULL (R150). -/
def probeFailed (b : BankId) (s : State) : State :=
  match (s.bank b).config with
  | some cfg =>
    match cfg.retryMode with
    | .off => probeFences b s
    | .unlimited => probeRetry b cfg.retryPeriod (s.bank b).rfull s
    | .limited =>
      if (s.bank b).rfull then probeFences b s
      else probeRetry b cfg.retryPeriod ((bumpRetries (s.bank b).retries).val == 15) s
  | none => s

/-- An entry into service (R151). -/
def bankEnters (b : BankId) (s : State) : State :=
  notifyChannels b .entering
    (scrubberTakes b scrubReturn
      (s.setBank b { s.bank b with service := .inService, retryTimer := .stopped, probe := .none, ueCount := 0 }))

def State.setProbe (s : State) (b : BankId) (p : Probe) : State :=
  s.setBank b { s.bank b with probe := p }

/-- A completed probe read taken at the unit (R149): only PROBING's own probe brings the bank back; the end of
a discarded one leaves the probe none. -/
def probeCompleted (b : BankId) (s : State) : State :=
  match (s.bank b).probe with
  | .inFlight => if (s.bank b).service = .probing then bankEnters b s else s.setProbe b .none
  | .discarded => s.setProbe b .none
  | .none => s
  | .waiting => s
  | .timedOut => s

/-- The end of a probe whose read no longer holds the memory port: its TIMEOUT is a failed probe of a PROBING
bank (R150), and a discarded probe's has no effect (R149). -/
def probeOutcome (b : BankId) (s : State) : Option State :=
  match (s.bank b).probe with
  | .timedOut =>
    if (s.bank b).service = .probing then some (probeFailed b (s.setProbe b .none)) else some (s.setProbe b .none)
  | .discarded => some (s.setProbe b .none)
  | .none => none
  | .waiting => none
  | .inFlight => none

/-- PROBE_END: the probe read that holds the memory port ends, or the TIMEOUT that ended it is taken
(R149, R150). The check unit marks what it counts before the bank health unit takes the end (log 17). -/
def probeEnd (b : BankId) (s : State) : Option State :=
  match s.arbiter.busy with
  | some ⟨.probe b' addr, _⟩ =>
    if b' = b then some (probeCompleted b (settle s (readAccess .probe b addr none (s.setBusy none)).2.2))
    else probeOutcome b s
  | _ => probeOutcome b s

/-! ## Bank commands (R152 to R154): the outcome, and the state after -/

/-- A probe as BANK_FENCE leaves it: a waiting one is withdrawn at its grant, one in flight is discarded. -/
def fencedProbe : Probe → Probe
  | .none => .none
  | .waiting => .waiting
  | .inFlight => .discarded
  | .timedOut => .discarded
  | .discarded => .discarded

/-- BANK_FENCE (R152). -/
def bankFence (b : BankId) (s : State) : CommandOutcome × State :=
  match (s.bank b).service with
  | .unused => (.wrongState, s)
  | .fenced => (.wrongState, s)
  | .inService => (.done, departFenced b .command s)
  | .retryWait =>
    (.done, raiseBoth .bankFenced (s.setBank b ((s.bank b).failed .fenced .command .stopped s.msCount)))
  | .probing =>
    (.done,
      raiseBoth .bankFenced
        (s.setBank b
          { (s.bank b).failed .fenced .command .stopped s.msCount with probe := fencedProbe (s.bank b).probe }))

/-- BANK_REINSTATE (R153). -/
def bankReinstate (b : BankId) (s : State) : CommandOutcome × State :=
  if (s.bank b).service = .fenced then (.done, bankEnters b s) else (.wrongState, s)

/-- The retry counter 0 and RFULL clear (R154). -/
def Bank.retriesCleared (x : Bank) : Bank :=
  { x with retries := 0, rfull := false }

/-- The retry timer of a bank, started with its period. -/
def Bank.periodTimer (x : Bank) : Timer :=
  match x.config with
  | some cfg => startTimer cfg.retryPeriod
  | none => .stopped

/-- BANK_CLEAR_RETRIES (R154). -/
def bankClearRetries (b : BankId) (s : State) : CommandOutcome × State :=
  let x := (s.bank b).retriesCleared
  match x.service with
  | .unused => (.wrongState, s)
  | .fenced =>
    (.done, raiseBoth .bankRetry (s.setBank b { x with service := .retryWait, retryTimer := x.periodTimer }))
  | .inService => (.done, s.setBank b x)
  | .retryWait => (.done, s.setBank b x)
  | .probing => (.done, s.setBank b x)

/-! ## Meanings -/

/-- TIMEOUT_REPORT (R145, R146). -/
def execTimeoutReport (b : BankId) (s : State) : Host.Outcome State Fault Refusal :=
  .next (event s (timeoutReport b))

/-- STORM (R145, R147). -/
def execStorm (b : BankId) (s : State) : Host.Outcome State Fault Refusal :=
  .next (event s (stormReport b))

/-- RETRY_TIMER_EXPIRY (R148). -/
def execRetryTimerExpiry (b : BankId) (s : State) : Host.Outcome State Fault Refusal :=
  .next (event s (retryExpiry b))

/-- PROBE_END (R149 to R151). -/
def execProbeEnd (b : BankId) (s : State) : Host.Outcome State Fault Refusal :=
  .next (event s (probeEnd b))

end Sys2Proof.Machine
end

