-- ==== Sys2Proof/Machine/Arbiter.lean ====
section
/-! DEFINITION. The arbiter (7.3) and ready control (7.4): the choice of a grant, withdrawals at the grant,
and operations that end in TIMEOUT. -/

namespace Sys2Proof.Machine

open Sys2Proof

/-! ## The waiting requests (R120) -/

def State.probeWaits (s : State) (b : BankId) : Bool :=
  (s.bank b).probe == .waiting

def State.copyWaits (s : State) : Bool :=
  match s.copy.state with
  | .active j => j.waits
  | .draining j => j.waits
  | .idle => false
  | .ending _ _ => false

def State.mirrorWaits (s : State) : Bool :=
  match s.mirror.request with
  | .waiting _ => true
  | .none => false
  | .inFlight _ => false
  | .timedOut _ => false

def State.portWaits (s : State) (p : Port) : Bool :=
  match (s.port p).phase with
  | .atArbiter _ _ => true
  | _ => false

def State.scrubWaits (s : State) : Bool :=
  s.scrub.state == .running .requesting && s.scrub.position.isSome

/-! ## The choice (R121) -/

/-- Whom the arbiter grants. -/
inductive Pick where
  | probe (b : BankId)
  | copy
  | mirror
  | port (p : Port)
  | scrub
  deriving DecidableEq, Repr

/-- Both pass-over counts stop at 8, where they give a claim (R121). -/
def passLimit : Nat := 8

/-- The port the arbiter would grant: when both wait, the one that was not granted last. -/
def pickPort (s : State) : Option Pick :=
  if s.portWaits (otherPort s.arbiter.lastPort) then some (.port (otherPort s.arbiter.lastPort))
  else if s.portWaits s.arbiter.lastPort then some (.port s.arbiter.lastPort)
  else none

/-- The first waiting request in the order of R121. -/
def pick (s : State) : Option Pick :=
  match bankIds.find? s.probeWaits with
  | some b => some (.probe b)
  | none =>
    if s.copyWaits && s.arbiter.copyPass == passLimit then some .copy
    else if s.mirrorWaits && s.arbiter.mirrorPass == passLimit then some .mirror
    else
      match pickPort s with
      | some x => some x
      | none =>
        if s.copyWaits then some .copy
        else if s.mirrorWaits then some .mirror
        else if s.scrubWaits then some .scrub
        else none

/-! ## Grants -/

/-- A pass-over count after a grant to a port (R121). -/
def passedOver (waits : Bool) (n : Nat) : Nat :=
  if waits then min (n + 1) passLimit else n

/-- The memory port taken by an operation, granted at this moment (R125). -/
def State.occupy (s : State) (op : BusyOp) : State :=
  s.setBusy (some ⟨op, 0⟩)

/-- A grant to a port: its hold timer stops, it is the last-granted port, and the counts of waiting others
increase (R9, R121). -/
def grantPort (p : Port) (s : State) : State :=
  match (s.port p).phase with
  | .atArbiter a op =>
    ({ s.setPort p { s.port p with phase := .granted a op, hold := .stopped } with
        arbiter := { s.arbiter with
          lastPort := p
          copyPass := passedOver s.copyWaits s.arbiter.copyPass
          mirrorPass := passedOver s.mirrorWaits s.arbiter.mirrorPass } }).occupy (.port p)
  | _ => s

/-- A waiting copy operation put on the memory port. -/
def grantedFlight : CopyFlight → CopyFlight
  | .readWaiting => .reading
  | .writeWaiting => .writing
  | .none => .none
  | .reading => .reading
  | .writing => .writing
  | .timedOut => .timedOut

/-- The engine's test of its operation at the grant (R89): an aborted copy's is withdrawn, and so is a write
whose offset the writer has claimed meanwhile, after which the engine goes on with the next offset. -/
def grantCopy (s : State) : State :=
  let t := clearCopyPass s
  match s.copy.state with
  | .active j =>
    if !jobCopying s j then t.setEngine (.active { j with flight := .none })
    else if j.flight = .writeWaiting && jobClaimed s j j.next then copyNext j t
    else (t.setEngine (.active { j with flight := grantedFlight j.flight })).occupy .copy
  | .draining _ => engineIdle t
  | .idle => t
  | .ending _ _ => t

/-- A mirror write granted: its offset leaves the set and becomes the last served, and it takes the value
the word shows at this moment, with the flags that are PENDING (R159, R161). -/
def grantMirror (s : State) : State :=
  match s.mirror.request, s.bcbBank with
  | .waiting off, some b =>
    (clearMirrorPass
      { s with
        mirror :=
          ⟨s.mirror.dirty.erase off, off,
            .inFlight ⟨off, b, s.bcbBase + 4 * off, mirrorWord s off, pendingBits s off⟩⟩ }).occupy .mirror
  | _, _ => clearMirrorPass { s with mirror := { s.mirror with request := .none } }

/-- A probe granted, or withdrawn when its bank is no longer PROBING (R122, R148, R149). -/
def grantProbe (b : BankId) (s : State) : State :=
  match (s.bank b).config with
  | some cfg =>
    if (s.bank b).service = .probing then (s.setProbe b .inFlight).occupy (.probe b cfg.probeAddr)
    else s.setProbe b .none
  | none => s.setProbe b .none

/-- A scrub read granted (R139). -/
def grantScrub (s : State) : State :=
  match s.scrub.position with
  | some a =>
    match s.bankOf a with
    | some b => (s.setScrub { s.scrub with state := .running .reading }).occupy (.scrub b a)
    | none => s
  | none => s

def carryOut (x : Pick) (s : State) : State :=
  match x with
  | .probe b => grantProbe b s
  | .copy => grantCopy s
  | .mirror => grantMirror s
  | .port p => grantPort p s
  | .scrub => grantScrub s

/-- Grants until an operation holds the memory port or nothing waits: after a withdrawal the next grant is
made at once (R120). Four probes and two copy requests at most can be withdrawn on the way. What a withdrawal changes
is marked before the next grant, so that the offset of a mirror write granted then leaves the set (R158, R159). -/
def grantLoop : Nat → State → State
  | 0, s => s
  | fuel + 1, s =>
    if s.arbiter.busy.isSome then s
    else
      match pick s with
      | some x => grantLoop fuel (settle s (carryOut x s))
      | none => s

/-- The current copy, when it has nothing in flight and its next offset is still to be dealt with (R87, R88). The
copy of a channel that has aborted it waits for its notice (R95). -/
def copyToDeal (s : State) : Option CopyJob :=
  match s.copy.state with
  | .active j => if j.flight = .none ∧ jobCopying s j then some j else none
  | .idle => none
  | .ending _ _ => none
  | .draining _ => none

/-- Before a grant an engine with nothing in flight deals with its next offset: it skips the claimed ones and puts
the read of the first that is not (R88, log 41). What it changes is marked before the grant. -/
def dealNext (s : State) : State :=
  match copyToDeal s with
  | some j => settle s (copyAdvance j s)
  | none => s

/-- ARBITER_GRANT: with the memory port free, no lock open, and a request waiting or about to be put (R88, R121). -/
def arbiterGrant (s : State) : Option State :=
  if s.arbiter.busy.isNone && s.arbiter.lock.isNone && ((pick s).isSome || (copyToDeal s).isSome) then
    some (grantLoop 8 (dealNext s))
  else none

/-! ## Ready control (R125, R126) -/

/-- The operation that holds the memory port, ended in TIMEOUT after `k` word accesses: what it did to memory
and to its requester. `none` when it would have ended within those accesses. -/
def timeoutEnds (op : BusyOp) (k : Nat) (s : State) : Option State :=
  match op with
  | .port p =>
    match (s.port p).phase with
    | .granted a o =>
      let r := portRun p o (some k) s
      if r.1.fault = some .timeout then some (endPortOp p a o r.1 r.2) else none
    | _ => none
  | .copy =>
    match s.copy.state with
    | .active j =>
      let r := copyRun j (some k) s
      if r.1 = .timeout then some (r.2.setEngine (.active { j with flight := .timedOut })) else none
    | .draining j =>
      let r := copyRun j (some k) s
      if r.1 = .timeout then some (r.2.setEngine (.draining { j with flight := .timedOut })) else none
    | .idle => none
    | .ending _ _ => none
  | .mirror =>
    match s.mirror.request with
    | .inFlight w =>
      if k = 0 then some { s with mirror := { s.mirror with request := .timedOut w.off } } else none
    | .none => none
    | .waiting _ => none
    | .timedOut _ => none
  | .scrub b addr =>
    let r := readAccess .scrub b addr (some k) s
    if r.1 = .timeout then
      some (if r.2.2.device = .loading then r.2.2 else r.2.2.setScrub { r.2.2.scrub with timedOut := some addr })
    else none
  | .probe b addr =>
    let r := readAccess .probe b addr (some k) s
    if r.1 = .timeout then
      some (if (r.2.2.bank b).probe = .inFlight then r.2.2.setProbe b .timedOut else r.2.2)
    else none
  | .initWrite b _ =>
    if k = 0 then
      some { s with loader := { s.loader with
        phase := .initTimedOut b, heldTimeouts := s.loader.heldTimeouts ++ [b] } }
    else none

/-- The bank of the operation that holds the memory port. -/
def busyBank (op : BusyOp) (s : State) : Option BankId :=
  match op with
  | .port p =>
    match (s.port p).phase with
    | .granted _ o => some o.bank
    | _ => none
  | .copy =>
    match s.copy.state.job with
    | some j => some j.bank
    | none => none
  | .mirror =>
    match s.mirror.request with
    | .inFlight w => some w.bank
    | .none => none
    | .waiting _ => none
    | .timedOut _ => none
  | .scrub b _ => some b
  | .probe b _ => some b
  | .initWrite b _ => some b

/-- Whether the TIMEOUT is reported to the bank health unit as a fault (R126, R127): not a probe's, not an
initialization write's, and none during LOADING. -/
def timeoutReported (op : BusyOp) (s : State) : Bool :=
  match op with
  | .probe _ _ => false
  | .initWrite _ _ => false
  | .port _ => s.device != .loading
  | .copy => s.device != .loading
  | .mirror => s.device != .loading
  | .scrub _ _ => s.device != .loading

def reportTimeout (b : BankId) (s : State) : State :=
  { s with timeoutReports := s.timeoutReports ++ [b] }

/-- Whether the ready timer of the access after those that took `waits` has run out in a bank: never with ready
control off (R125). -/
def State.readyDue (s : State) (b : BankId) (waits : List Nat) (waited : Nat) : Bool :=
  match s.readyLimit b with
  | some t => readyExpired t waits waited
  | none => false

/-- READY_TIMEOUT: in a bank with ready control on, the ready timer of the access after those that took `waits` has
expired before that access got ready. -/
def readyTimeout (waits : List Nat) (s : State) : Option State :=
  match s.arbiter.busy with
  | some busy =>
    match busyBank busy.op s with
    | some b =>
      if s.readyDue b waits busy.waited then
        match timeoutEnds busy.op waits.length (s.setBusy none) with
        | some t => some (if timeoutReported busy.op s then reportTimeout b t else t)
        | none => none
      else none
    | none => none
  | none => none

/-- ARBITER_GRANT (R120 to R122). Each part of it has marked what it changed, so the step is not settled once more
as a whole: that would put the offset of a mirror write just granted back into the set (R159). -/
def execArbiterGrant (s : State) : Host.Outcome State Fault Refusal :=
  .next (if s.pinAsserted then s else (arbiterGrant s).getD s)

/-- READY_TIMEOUT (R125, R126). -/
def execReadyTimeout (waits : List Nat) (s : State) : Host.Outcome State Fault Refusal :=
  .next (event s (readyTimeout waits))

end Sys2Proof.Machine
end

