-- ==== Sys2Proof/Machine/Bus.lean ====
section
/-! DEFINITION. The bus ports (chapter 1) and the access decoder (chapter 2): taking an access, the form
check, classification, locked pairs, the end of an operation, and hold expiry. -/

namespace Sys2Proof.Machine

open Sys2Proof

/-! ## Classification (R13 to R25) -/

/-- Whether an address is in the 4 KiB BCB (2.2). -/
def State.inBcb (s : State) (a : Nat) : Bool :=
  inRange a s.bcbBase 4096

/-- The configured channel whose window holds an address (R18). -/
def State.windowOf (s : State) (a : Nat) : Option ChanId :=
  chanIds.find? (fun c =>
    match s.chan c with
    | some ch => ch.config.inWindow a
    | none => false)

/-- Whether an address is in the slot area of a configured channel (R20). -/
def State.inSlotArea (s : State) (a : Nat) : Bool :=
  chanIds.any (fun c =>
    match s.chan c with
    | some ch => ch.config.inSlotArea a
    | none => false)

/-- A port's permission for an address: that of the highest-numbered enabled region that covers it, or the
port's default access (R23). -/
def State.permission (s : State) (p : Port) (a : Nat) : Permission :=
  match regionIdsDown.find? (fun r => (s.regions.get r).covers a) with
  | some r => (s.regions.get r).perms.get p
  | none => s.defaultAccess.get p

/-- What decode makes of an access. -/
inductive Decoded where
  | refused (f : FaultCode)
  | bcbRead
  | bcbWrite (off : Nat)
  | window (c : ChanId) (off : Nat)
  | memory
  deriving DecidableEq, Repr

/-- The BCB offsets of the words of an access. -/
def bcbOffsets (off : Nat) (a : Access) : List Nat :=
  (List.range (wordCount a)).map (fun i => off + i)

/-- An access to the BCB (R15, R16, R25). -/
def decodeBcb (p : Port) (a : Access) (off : Nat) : Decoded :=
  if a.write then
    if (bcbOffsets off a).any (bcbWritable p) && !isSingleWord a then .refused .form
    else if (bcbOffsets off a).any (fun k => !bcbWritable p k) then .refused .reserved
    else .bcbWrite off
  else if a.locked then .refused .form
  else .bcbRead

/-- An access to the window of a configured channel (R18, R25). -/
def decodeWindow (a : Access) (c : ChanId) (ch : Channel) : Decoded :=
  if ch.state = .off then .refused .channelOff
  else if a.locked then .refused .form
  else .window c ((a.addr.toNat - ch.config.windowBase) / 4)

/-- Steps 3 to 6: slot area, unmapped, region check, memory (R20, R21, R23). -/
def decodePlain (p : Port) (a : Access) (s : State) : Decoded :=
  if s.inSlotArea a.addr.toNat then .refused .reserved
  else if (s.bankOf a.addr.toNat).isNone then .refused .unmapped
  else if permits (s.permission p a.addr.toNat) a then .memory
  else .refused .denied

/-- Classification by the first address, in the order of R13. -/
def decode (p : Port) (a : Access) (s : State) : Decoded :=
  if s.inBcb a.addr.toNat then decodeBcb p a ((a.addr.toNat - s.bcbBase) / 4)
  else
    match s.windowOf a.addr.toNat with
    | some c =>
      match s.chan c with
      | some ch => decodeWindow a c ch
      | none => decodePlain p a s
    | none => decodePlain p a s

/-! ## Handing an access on -/

/-- The tag of a plain memory operation. -/
def memoryTag (a : Access) : OpTag :=
  if a.locked then .lockedRead (firstWord a) else .plain

/-- The physical operation of an access that keeps its own addresses (R24). -/
def putDirect (p : Port) (a : Access) (tag : OpTag) (s : State) : State :=
  putWords p a (wordsFrom (firstWord a) (wordCount a)) (if a.write then accessData a else []) tag s

/-- What decode decided, carried out (R14, R15, R17, R18, R24). -/
def handOn (p : Port) (a : Access) (d : Decoded) (s : State) : State :=
  match d with
  | .refused f => answerFault p a f s
  | .bcbRead => putDirect p a .plain s
  | .bcbWrite off => putDirect p a (.bcb off) s
  | .window c off => s.setPhase p (.atChannel a c off)
  | .memory => putDirect p a (memoryTag a) s

/-- The form check and decode of an access that meets no open lock (R1, R13). -/
def admitPlain (p : Port) (a : Access) (s : State) : State :=
  if formOk a then handOn p a (decode p a s) s else answerFault p a .form s

/-! ## The write half of a locked pair (R3, R25, R119) -/

/-- A fault answer to the write half, which is marked locked (R12). -/
def answerHalf (p : Port) (a : Access) (f : FaultCode) (s : State) : State :=
  giveAnswer p a ⟨[], some f⟩ a.addr true (s.setLock none)

/-- The write half performed at once, without arbitration; the lock stays until the operation ends (R119). -/
def performHalf (p : Port) (a : Access) (s : State) : State :=
  match s.bankOf a.addr.toNat with
  | some b =>
    if s.inService b then
      (s.setPort p { s.port p with
        phase := .granted a ⟨b, [firstWord a], true, a.size.val, byteLane a, accessData a, .writeHalf⟩
        hold := .stopped }).occupy (.port p)
    else answerHalf p a .unavailable s
  | none => answerHalf p a .unavailable s

/-- A write half decoded anew: FORM in a window, RESERVED in a slot area, otherwise as it classifies (R25,
log 13). -/
def admitHalf (p : Port) (a : Access) (s : State) : State :=
  if (s.windowOf a.addr.toNat).isSome && !s.inBcb a.addr.toNat then answerHalf p a .form s
  else
    match decode p a s with
    | .refused f => answerHalf p a f s
    | .bcbRead => answerHalf p a .form s
    | .bcbWrite _ => answerHalf p a .form s
    | .window _ _ => answerHalf p a .form s
    | .memory => performHalf p a s

/-- The port's next access after an open lock: the write half, or anything else, answered FORM with the lock
dropped (R3). -/
def admitLocked (p : Port) (a : Access) (addr : Nat) (s : State) : State :=
  if isWriteHalf a addr then admitHalf p a s else answerFault p a .form (s.setLock none)

/-- An access passed from the port to the decoder, outside LOADING. -/
def admitAccess (p : Port) (a : Access) (s : State) : State :=
  match s.arbiter.lock with
  | some l => if l.port = p then admitLocked p a l.addr s else admitPlain p a s
  | none => admitPlain p a s

/-! ## Taking an access (R2, R9, R10) -/

/-- The limit an access is taken under: the limit in force, and 10,000 µs for one taken during LOADING, the bank
initialization included (R8, log 14). -/
def limitTaken (p : Port) (s : State) : Nat :=
  if s.device = .loading then 10000 else (s.port p).holdLimit.toNat

/-- The access taken: the last answer has been given, and the hold timer starts. -/
def takeAccess (p : Port) (a : Access) (s : State) : State :=
  s.setPort p { s.port p with
    phase := .held a
    hold := startUnlessZero (limitTaken p s)
    answer := none }

/-- PORT_ACCESS: the port takes a new access only when it is IDLE (R2); during LOADING it holds it (R10). -/
def portAccess (p : Port) (a : Access) (s : State) : Option State :=
  if (s.port p).phase = .idle then
    if s.device = .loading then some (takeAccess p a s) else some (admitAccess p a (takeAccess p a s))
  else none

/-! ## The end of an operation (R115) -/

/-- PORT_OPERATION_END: the port's operation holds the memory port and every word access gets its ready. -/
def portOperationEnd (p : Port) (s : State) : Option State :=
  match s.arbiter.busy, (s.port p).phase with
  | some ⟨.port q, _⟩, .granted a op =>
    if q = p then
      let r := portRun p op none (s.setBusy none)
      some (endPortOp p a op r.1 r.2)
    else none
  | _, _ => none

/-! ## Hold expiry (R9) -/

/-- The waiting commit of a channel is gone; its slot stays FILLING and its copy runs (R9, R93). -/
def dropWaiting (c : ChanId) (s : State) : State :=
  match s.chan c with
  | some ch => s.setChan c (some { ch with waiting := none })
  | none => s

/-- An expiry while the access waits: HOLD_EXPIRED, with no further step for it (R9). An expired commit's word
0 write releases a tag read kept back on it (R73). -/
def expire (p : Port) (s : State) : Option State :=
  match (s.port p).phase with
  | .held a => some (answerFault p a .holdExpired s)
  | .atChannel a _ _ => some (answerFault p a .holdExpired s)
  | .waitingCommit a c => some (answerFault p a .holdExpired (dropWaiting c s))
  | .keptBack a _ _ _ => some (answerFault p a .holdExpired s)
  | .atArbiter a op => some (releaseKeptBack p op.tag (answerFault p a .holdExpired s))
  | .idle => none
  | .granted _ _ => none
  | .handover _ _ _ _ => none

/-- HOLD_EXPIRED: the port's hold timer is at zero and not stopped. -/
def holdExpired (p : Port) (s : State) : Option State :=
  if (s.port p).hold = .due then expire p s else none

/-- PORT_ACCESS (R1 to R3, R10, R13 to R25). -/
def execPortAccess (p : Port) (a : Access) (s : State) : Host.Outcome State Fault Refusal :=
  .next (event s (portAccess p a))

/-- PORT_OPERATION_END (R4 to R7, R17, R73, R115 to R119, R131 to R136). -/
def execPortOperationEnd (p : Port) (s : State) : Host.Outcome State Fault Refusal :=
  .next (event s (portOperationEnd p))

/-- HOLD_EXPIRED (R9, R73). -/
def execHoldExpired (p : Port) (s : State) : Host.Outcome State Fault Refusal :=
  .next (event s (holdExpired p))

end Sys2Proof.Machine
end

