-- ==== Sys2Proof/Machine/TimeBase.lean ====
section
/-! DEFINITION. The time base (6.1) and the freshness timer's expiry (R106). -/

namespace Sys2Proof.Machine

open Sys2Proof

/-! ## The tick and the advance (R101 to R103) -/

def PortRecord.ticked (r : PortRecord) : PortRecord :=
  { r with hold := tickTimer r.hold }

def Busy.ticked (b : Busy) : Busy :=
  { b with waited := b.waited + 1 }

/-- The microsecond timers move by one: hold timers and the scrub interval lose one, and the ready timeout of the
operation in progress has waited one more (R103, R125). -/
def tickMicroTimers (s : State) : State :=
  { s with
    ports := ⟨s.ports.first.ticked, s.ports.second.ticked⟩
    arbiter := { s.arbiter with busy := s.arbiter.busy.map Busy.ticked }
    scrub := { s.scrub with timer := tickTimer s.scrub.timer } }

/-- MICROSECOND_TICK: during LOADING the position within the millisecond stays 0 (R101 to R103). -/
def microsecondTick (s : State) : State :=
  let t := tickMicroTimers s
  if s.device = .loading then t else { t with usInMs := s.usInMs + 1 }

def Channel.advanced (ch : Channel) : Channel :=
  { ch with deadline := tickTimer ch.deadline }

def Bank.advanced (x : Bank) : Bank :=
  { x with retryTimer := tickTimer x.retryTimer }

/-- The millisecond timers lose one: freshness deadlines and retry periods (R103). -/
def tickMilliTimers (s : State) : State :=
  { s with
    channels := s.channels.map (fun e => e.map Channel.advanced)
    banks := s.banks.map Bank.advanced }

/-- MILLISECOND_ADVANCE: at every thousandth tick the count advances by one and wraps; it stands during
LOADING (R102). -/
def millisecondAdvance (s : State) : Option State :=
  if s.device ≠ .loading ∧ 1000 ≤ s.usInMs then
    let t := tickMilliTimers s
    some { t with usInMs := s.usInMs - 1000, msCount := s.msCount + 1 }
  else none

/-! ## Freshness expiry (R106) -/

/-- FRESHNESS_EXPIRY: in LIVE the channel becomes STALE and STALE is raised; the timer is not re-armed. -/
def freshnessExpiry (c : ChanId) (s : State) : Option State :=
  match s.chan c with
  | some ch =>
    if ch.state = .live ∧ ch.deadline = .due then
      some (raiseChannel c .stale (s.setChan c (some { ch with state := .stale, deadline := .stopped })))
    else none
  | none => none

/-- The effect of TIME_ZERO (R104): the count and the position within the millisecond become 0, every timer
keeps its remaining time, and the time word is marked dirty (R102). -/
def zeroTime (s : State) : State :=
  markDirty 1 { s with msCount := 0, usInMs := 0 }

/-- MICROSECOND_TICK (R101, R103). -/
def execMicrosecondTick (s : State) : Host.Outcome State Fault Refusal :=
  .next (event s (fun t => some (microsecondTick t)))

/-- MILLISECOND_ADVANCE (R102, R103). -/
def execMillisecondAdvance (s : State) : Host.Outcome State Fault Refusal :=
  .next (event s millisecondAdvance)

/-- FRESHNESS_EXPIRY (R106). -/
def execFreshnessExpiry (c : ChanId) (s : State) : Host.Outcome State Fault Refusal :=
  .next (event s (freshnessExpiry c))

end Sys2Proof.Machine
end

