-- ==== Sys2Proof/Machine/Control.lean ====
section
/-! DEFINITION. The control block unit's own steps (chapter 10): the mirror writer, and the handovers of mask,
acknowledgement and staging words. -/

namespace Sys2Proof.Machine

open Sys2Proof

/-! ## The mirror writer (R159, R160) -/

/-- The next offset to serve: the lowest in the set above the last served, or the lowest of all. -/
def nextDirty (m : Mirror) : Option Nat :=
  match m.dirty.find? (fun off => decide (m.last < off)) with
  | some off => some off
  | none => m.dirty.head?

/-- Whether the bank that holds the BCB is in service (R160). -/
def State.bcbInService (s : State) : Bool :=
  match s.bcbBank with
  | some b => s.inService b
  | none => false

/-- MIRROR_WRITE_REQUEST: no write is in flight or waiting, the set is not empty, and the BCB's bank is in
service. The writer is idle during LOADING (R158). -/
def mirrorRequest (s : State) : Option State :=
  if s.device ≠ .loading ∧ s.mirror.request = .none ∧ s.bcbInService then
    (nextDirty s.mirror).map (fun off => { s with mirror := { s.mirror with request := .waiting off } })
  else none

/-- A completed mirror write: the word holds the value with good code, and the flags it carried are posted
(R159, R161). While the BCB's bank is out of service no flag becomes posted (R160): the word is stored, and when it
carried flags still to be posted its offset rejoins the set, so that a write after the bank's return posts them
(log 40). -/
def mirrorCompleted (w : MirrorWrite) (s : State) : State :=
  let t := storeWord w.bank w.addr w.value { s with mirror := { s.mirror with request := .none } }
  if s.inService w.bank then postFlags w.off w.carried t else if w.carried = [] then t else markDirty w.off t

/-- A mirror write that ended in TIMEOUT: its offset rejoins the set and nothing is posted (R159). -/
def mirrorFailed (off : Nat) (s : State) : State :=
  markDirty off { s with mirror := { s.mirror with request := .none } }

/-- MIRROR_WRITE_END. -/
def mirrorWriteEnd (s : State) : Option State :=
  match s.mirror.request with
  | .inFlight w =>
    match s.arbiter.busy with
    | some ⟨.mirror, _⟩ => some (mirrorCompleted w (s.setBusy none))
    | _ => none
  | .timedOut off => some (mirrorFailed off s)
  | .none => none
  | .waiting _ => none

/-! ## Handovers (R17, R162 to R164, R168) -/

/-- A handover taken, when the word written is one of these: its effect, whose changes are marked (log 17), then the
answer of the port, by the memory outcome of its write (R17). -/
def takeHandover (p : Port) (mine : Nat → Bool) (effect : Nat → Word → State → State) (s : State) :
    Option State :=
  match (s.port p).phase with
  | .handover a off v ending =>
    if mine off then some (giveAnswer p a ⟨[], ending⟩ a.addr a.locked (settle s (effect off v s))) else none
  | _ => none

/-- The line a word of a pair of words belongs to. -/
def lineOf (off base : Nat) : Port :=
  if off = base then .port0 else .port1

/-- A global mask takes the value written, and its word is marked (R158, R162). -/
def writeGlobalMask (off : Nat) (v : Word) (s : State) : State :=
  markDirty off { s with globalMask := s.globalMask.set (lineOf off 6) v }

/-- A channel mask takes the value written, and its word is marked (R158, R162). -/
def writeChannelMask (off : Nat) (v : Word) (s : State) : State :=
  markDirty off { s with channelMask := s.channelMask.set (lineOf off 8) v }

/-- A global ack word (R163). -/
def writeGlobalAck (off : Nat) (v : Word) (s : State) : State :=
  ackGlobal (lineOf off 10) v s

/-- The channel ack word (R163). -/
def writeChannelAck (_off : Nat) (v : Word) (s : State) : State :=
  ackChannel v s

/-- A capture emptied, with its overflow count 0 (R136, R164). -/
def Capture.emptied {α : Type} (_c : Capture α) : Capture α :=
  ⟨none, 0⟩

def emptyPortCapture (p : Port) (s : State) : State :=
  s.setPort p { s.port p with capture := (s.port p).capture.emptied }

/-- The capture ack word: one bit for each port capture and one for the memory error capture (R164). -/
def writeCaptureAck (_off : Nat) (v : Word) (s : State) : State :=
  let s0 := if v.getLsbD 0 then emptyPortCapture .port0 s else s
  let s1 := if v.getLsbD 1 then emptyPortCapture .port1 s0 else s0
  if v.getLsbD 2 then { s1 with memCapture := s1.memCapture.emptied } else s1

/-- A staging word: the writing port's internal copy takes the value (R168). -/
def writeStaging (p : Port) (off : Nat) (v : Word) (s : State) : State :=
  if h : off - (32 + 16 * portNat p) < 16 then
    { s with staging := s.staging.set p ((s.staging.get p).set (off - (32 + 16 * portNat p)) v h) }
  else s

/-- Whether an offset is in a port's staging entry (12.1). -/
def stagingOffset (p : Port) (off : Nat) : Bool :=
  decide (32 + 16 * portNat p ≤ off) && decide (off < 48 + 16 * portNat p)

/-! ## Meanings -/

/-- MIRROR_WRITE_REQUEST (R158 to R160). -/
def execMirrorWriteRequest (s : State) : Host.Outcome State Fault Refusal :=
  .next (event s mirrorRequest)

/-- MIRROR_WRITE_END (R159, R161). -/
def execMirrorWriteEnd (s : State) : Host.Outcome State Fault Refusal :=
  .next (event s mirrorWriteEnd)

/-- GLOBAL_MASK_WRITE (R162). -/
def execGlobalMaskWrite (p : Port) (s : State) : Host.Outcome State Fault Refusal :=
  .next (event s (takeHandover p (fun off => off == 6 || off == 7) writeGlobalMask))

/-- CHANNEL_MASK_WRITE (R162). -/
def execChannelMaskWrite (p : Port) (s : State) : Host.Outcome State Fault Refusal :=
  .next (event s (takeHandover p (fun off => off == 8 || off == 9) writeChannelMask))

/-- GLOBAL_ACK (R163). -/
def execGlobalAck (p : Port) (s : State) : Host.Outcome State Fault Refusal :=
  .next (event s (takeHandover p (fun off => off == 10 || off == 11) writeGlobalAck))

/-- CHANNEL_ACK (R112, R163). -/
def execChannelAck (p : Port) (s : State) : Host.Outcome State Fault Refusal :=
  .next (event s (takeHandover p (fun off => off == 12) writeChannelAck))

/-- CAPTURE_ACK (R136, R163, R164). -/
def execCaptureAck (p : Port) (s : State) : Host.Outcome State Fault Refusal :=
  .next (event s (takeHandover p (fun off => off == 13) writeCaptureAck))

/-- STAGING_WRITE (R168). -/
def execStagingWrite (p : Port) (s : State) : Host.Outcome State Fault Refusal :=
  .next (event s (takeHandover p (stagingOffset p) (writeStaging p)))

end Sys2Proof.Machine
end

