-- ==== Sys2Proof/Machine/Image.lean ====
section
/-! DEFINITION. The layouts of the configuration image and of a staging entry (12.4), and the checks made on
them (R31 to R33, R172, R173, R177). -/

namespace Sys2Proof.Machine

open Sys2Proof

/-! ## Encodings read from words (12.5) -/

def decodeMode (n : Nat) : Mode := if n = 1 then .queue else .latest

def decodePolicy (n : Nat) : StalePolicy := if n = 1 then .substitute else .hold

def decodePort (n : Nat) : Port := if n = 1 then .port1 else .port0

def decodePermission (n : Nat) : Permission :=
  if n = 1 then .read else if n = 2 then .readWrite else .none

def decodeRetryMode (n : Nat) : RetryMode :=
  if n = 1 then .limited else if n = 2 then .unlimited else .off

/-- Retry periods in milliseconds. -/
def decodePeriod (n : Nat) : Nat :=
  if n = 0 then 10 else if n = 1 then 50 else if n = 2 then 200 else 1000

/-- Bank sizes: 64 KiB doubled by each step of the encoding. -/
def decodeSize (n : Nat) : Nat := 65536 * 2 ^ n

/-! ## Channel entries (12.4) -/

/-- The six words of a channel entry that carry fields. -/
structure EntryWords where
  w0 : Word
  w1 : Word
  w2 : Word
  w3 : Word
  w4 : Word
  w5 : Word
  deriving DecidableEq, Repr

/-- Check 1 of R31: mode, writer port, reader port, carry-forward, stale policy and enable at start hold a
listed encoding. -/
def EntryWords.listed (e : EntryWords) : Bool :=
  [8, 16, 18, 20, 24, 28].all (fun lo => decide (bitsOf e.w0 lo 2 < 2))

/-- The configuration an entry gives. -/
def EntryWords.config (e : EntryWords) : ChannelConfig where
  windowBase := bitsOf e.w1 0 24
  len := bitsOf e.w2 0 13
  mode := decodeMode (bitsOf e.w0 8 2)
  depth := bitsOf e.w0 12 4
  writer := decodePort (bitsOf e.w0 16 2)
  reader := decodePort (bitsOf e.w0 18 2)
  slotBase := bitsOf e.w3 0 24
  carry := bitsOf e.w0 20 2 == 1
  freshness := bitsOf e.w4 0 16
  policy := decodePolicy (bitsOf e.w0 24 2)
  substitute := if e.w5.getLsbD 31 then some (bitsOf e.w5 0 24) else none
  enableAtStart := bitsOf e.w0 28 2 == 1

/-! ## Field checks 2 to 7 of R31 -/

def ChannelConfig.depthOk (cfg : ChannelConfig) : Bool :=
  match cfg.mode with
  | .latest => decide (2 ≤ cfg.depth) && decide (cfg.depth ≤ 4)
  | .queue => decide (2 ≤ cfg.depth) && decide (cfg.depth ≤ 8)

def substituteAligned (sub : Option Nat) : Bool :=
  match sub with
  | some b => b % 64 == 0
  | none => true

/-- Checks 2 to 7 of R31; each fails alike. -/
def ChannelConfig.fieldsOk (cfg : ChannelConfig) : Bool :=
  decide (16 ≤ cfg.len) && decide (cfg.len ≤ 4096) && cfg.len % 16 == 0
    && cfg.windowBase % 64 == 0 && cfg.slotBase % 64 == 0 && substituteAligned cfg.substitute
    && cfg.depthOk
    && cfg.writer != cfg.reader
    && (!cfg.carry || cfg.mode == .latest)
    && (cfg.policy == .hold || (cfg.mode == .latest && cfg.substitute.isSome))

/-! ## Placement checks of R32 -/

/-- What an entry is placed among: the configured banks as (base, size), the BCB, the other channels (R33). -/
structure Surroundings where
  banks : List (Nat × Nat)
  bcb : Nat
  others : List ChannelConfig
  deriving DecidableEq, Repr

/-- Whether a range lies wholly inside one configured bank. -/
def Surroundings.inOneBank (e : Surroundings) (base len : Nat) : Bool :=
  e.banks.any (fun b => decide (b.1 ≤ base) && decide (base + len ≤ b.1 + b.2))

def ChannelConfig.slotBytes (cfg : ChannelConfig) : Nat := 4 * cfg.depth * cfg.len

/-- Whether a range overlaps a channel's substitute image. -/
def ChannelConfig.overlapsSubstitute (cfg : ChannelConfig) (base len : Nat) : Bool :=
  match cfg.substitute with
  | some b => rangesOverlap base len b cfg.bytes
  | none => false

/-- Placement checks 1 and 2: the window. -/
def windowPlaced (cfg : ChannelConfig) (e : Surroundings) : Bool :=
  decide (cfg.windowBase + cfg.bytes ≤ 2 ^ 24)
    && !rangesOverlap cfg.windowBase cfg.bytes e.bcb 4096
    && e.others.all (fun o => !rangesOverlap cfg.windowBase cfg.bytes o.windowBase o.bytes)

/-- Placement checks 3 to 5: the slot area. -/
def slotsPlaced (cfg : ChannelConfig) (e : Surroundings) : Bool :=
  e.inOneBank cfg.slotBase cfg.slotBytes
    && !rangesOverlap cfg.slotBase cfg.slotBytes e.bcb 4096
    && e.others.all (fun o => !rangesOverlap cfg.slotBase cfg.slotBytes o.slotBase o.slotBytes)
    && !cfg.overlapsSubstitute cfg.slotBase cfg.slotBytes
    && e.others.all (fun o => !o.overlapsSubstitute cfg.slotBase cfg.slotBytes)

/-- Placement checks 6 and 7: the substitute image, when present. -/
def substitutePlaced (cfg : ChannelConfig) (e : Surroundings) : Bool :=
  match cfg.substitute with
  | some b =>
    e.inOneBank b cfg.bytes && !rangesOverlap b cfg.bytes e.bcb 4096
      && e.others.all (fun o => !rangesOverlap b cfg.bytes o.slotBase o.slotBytes)
  | none => true

/-- The checks of R31 from the second on, and those of R32. -/
def ChannelConfig.accepted (cfg : ChannelConfig) (e : Surroundings) : Bool :=
  cfg.fieldsOk && windowPlaced cfg e && slotsPlaced cfg e && substitutePlaced cfg e

/-! ## The image as words (R171) -/

/-- A byte of the configuration memory; past what it delivered the data input is high. -/
def imageByte (bytes : List Byte) (i : Nat) : Byte :=
  bytes.getD i 0xFF

/-- An image word: four bytes, the first least significant. -/
def imageWord (bytes : List Byte) (i : Nat) : Word :=
  wordOfBytes (imageByte bytes (4 * i)) (imageByte bytes (4 * i + 1)) (imageByte bytes (4 * i + 2))
    (imageByte bytes (4 * i + 3))

/-! ## CRC-32 (R172) -/

/-- One bit of the reflected register: the generator's bits in reversed order are 0xEDB88320. -/
def crcBit (c : Word) : Word :=
  if c.getLsbD 0 then (c >>> 1) ^^^ 0xEDB88320 else c >>> 1

/-- A byte fed least significant bit first. -/
def crcByte (c : Word) (b : Byte) : Word :=
  crcBit (crcBit (crcBit (crcBit (crcBit (crcBit (crcBit (crcBit (c ^^^ b.setWidth 32))))))))

/-- The register starts at all ones and is inverted at the end. -/
def crc32 (bytes : List Byte) : Word :=
  ~~~(bytes.foldl crcByte (BitVec.allOnes 32))

/-! ## Entries of the image (12.4) -/

/-- Check 5 for a bank entry: the configured field, and every other field of a configured entry (R177). -/
def bankListed (w0 w2 : Word) : Bool :=
  decide (bitsOf w0 0 2 < 2)
    && (bitsOf w0 0 2 == 0
      || (decide (bitsOf w0 2 2 < 2) && decide (bitsOf w0 4 2 < 2) && decide (bitsOf w0 8 4 < 8)
        && decide (bitsOf w0 20 2 < 2) && (bitsOf w0 20 2 == 0 || bitsOf w0 24 8 != 0)
        && decide (bitsOf w2 0 2 < 3)))

/-- The bank entry that four words give. -/
def bankEntry (w0 w1 w2 w3 : Word) : Option BankConfig :=
  if bitsOf w0 0 2 = 1 then
    some {
      base := bitsOf w1 0 24
      size := decodeSize (bitsOf w0 8 4)
      checkCode := bitsOf w0 2 2 == 1
      initAtStart := bitsOf w0 4 2 == 1
      readWaits := BitVec.ofNat 4 (bitsOf w0 12 4)
      writeWaits := BitVec.ofNat 4 (bitsOf w0 16 4)
      readyTimeout := if bitsOf w0 20 2 = 1 then some (bitsOf w0 24 8) else none
      retryMode := decodeRetryMode (bitsOf w2 0 2)
      retryPeriod := decodePeriod (bitsOf w2 4 2)
      stormThreshold := BitVec.ofNat 8 (bitsOf w2 8 8)
      probeOffset := bitsOf w3 0 21 }
  else none

/-- Check 5 for a region entry: the enabled field, and both permissions of an enabled one (R177). -/
def regionListed (w0 : Word) : Bool :=
  decide (bitsOf w0 0 2 < 2)
    && (bitsOf w0 0 2 == 0 || (decide (bitsOf w0 4 2 < 3) && decide (bitsOf w0 6 2 < 3)))

def regionEntry (w0 w1 : Word) : Region :=
  ⟨bitsOf w0 0 2 == 1, BitVec.ofNat 16 (bitsOf w1 0 16), BitVec.ofNat 16 (bitsOf w1 16 16),
    ⟨decodePermission (bitsOf w0 4 2), decodePermission (bitsOf w0 6 2)⟩⟩

/-- The clock frequency, the default accesses and the scrub auto-start of the device words. -/
def deviceListed (w4 w7 : Word) : Bool :=
  decide (8 ≤ bitsOf w4 0 8) && decide (bitsOf w4 0 8 ≤ 200) && decide (bitsOf w7 0 2 < 3)
    && decide (bitsOf w7 2 2 < 3) && decide (bitsOf w7 4 2 < 2)

/-- The number of channel entries a header gives. -/
def channelCount (bytes : List Byte) : Nat :=
  bitsOf (imageWord bytes 3) 16 8

/-- The words of channel entry `i` of an image. -/
def imageEntry (bytes : List Byte) (i : Nat) : EntryWords :=
  ⟨imageWord bytes (41 + 16 * i), imageWord bytes (42 + 16 * i), imageWord bytes (43 + 16 * i),
    imageWord bytes (44 + 16 * i), imageWord bytes (45 + 16 * i), imageWord bytes (46 + 16 * i)⟩

def EntryWords.number (e : EntryWords) : Nat := bitsOf e.w0 0 8

def imageEntries (bytes : List Byte) : List EntryWords :=
  (List.range (channelCount bytes)).map (imageEntry bytes)

def imageBank (bytes : List Byte) (b : Fin 4) : Option BankConfig :=
  bankEntry (imageWord bytes (9 + 4 * b.val)) (imageWord bytes (10 + 4 * b.val))
    (imageWord bytes (11 + 4 * b.val)) (imageWord bytes (12 + 4 * b.val))

def imageRegion (bytes : List Byte) (r : Fin 8) : Region :=
  regionEntry (imageWord bytes (25 + 2 * r.val)) (imageWord bytes (26 + 2 * r.val))

/-- The configuration an image gives a channel: that of the entry which names it. -/
def imageChannel (bytes : List Byte) (c : ChanId) : Option ChannelConfig :=
  ((imageEntries bytes).find? (fun e => e.number == c.val)).map EntryWords.config

/-- The settings of an image. -/
def imageSettings (bytes : List Byte) : Image where
  clockMHz := bitsOf (imageWord bytes 4) 0 8
  holdLimits :=
    ⟨BitVec.ofNat 16 (bitsOf (imageWord bytes 5) 0 16), BitVec.ofNat 16 (bitsOf (imageWord bytes 5) 16 16)⟩
  bcbBase := bitsOf (imageWord bytes 6) 0 24
  defaultAccess :=
    ⟨decodePermission (bitsOf (imageWord bytes 7) 0 2), decodePermission (bitsOf (imageWord bytes 7) 2 2)⟩
  scrubInterval := BitVec.ofNat 16 (bitsOf (imageWord bytes 8) 0 16)
  scrubAutoStart := bitsOf (imageWord bytes 7) 4 2 == 1
  banks := Vector.ofFn (imageBank bytes)
  regions := Vector.ofFn (imageRegion bytes)
  channels := Vector.ofFn (imageChannel bytes)

/-! ## The nine checks (R172, R173, R177) -/

/-- The length in words that the counts give. -/
def expectedLength (channels : Nat) : Nat := 42 + 16 * channels

/-- Check 3: the counts and the length. -/
def lengthOk (bytes : List Byte) : Bool :=
  let w3 := imageWord bytes 3
  bitsOf w3 0 8 == 4 && bitsOf w3 8 8 == 8 && decide (bitsOf w3 16 8 ≤ 16)
    && (imageWord bytes 2).toNat == expectedLength (bitsOf w3 16 8)
    && decide (expectedLength (bitsOf w3 16 8) ≤ 512)

/-- The bytes of an image before its CRC word. -/
def crcBytes (bytes : List Byte) : List Byte :=
  (List.range (4 * (expectedLength (channelCount bytes) - 1))).map (imageByte bytes)

/-- Check 4. -/
def crcOk (bytes : List Byte) : Bool :=
  imageWord bytes (expectedLength (channelCount bytes) - 1) == crc32 (crcBytes bytes)

/-- Check 5. -/
def fieldsListed (bytes : List Byte) : Bool :=
  deviceListed (imageWord bytes 4) (imageWord bytes 7)
    && bankIds.all (fun b => bankListed (imageWord bytes (9 + 4 * b.val)) (imageWord bytes (11 + 4 * b.val)))
    && slotIds.all (fun r => regionListed (imageWord bytes (25 + 2 * r.val)))
    && (imageEntries bytes).all (fun e => decide (e.number < 16) && e.listed)

/-- One configured bank of check 6: its base, its end and its probe word. -/
def bankPlaced (x : BankConfig) : Bool :=
  x.base % 65536 == 0 && decide (x.base + x.size ≤ 2 ^ 24) && decide (4 * x.probeOffset < x.size)

/-- No two ranges of a list overlap. -/
def disjointRanges : List (Nat × Nat) → Bool
  | [] => true
  | r :: rest => rest.all (fun q => !rangesOverlap r.1 r.2 q.1 q.2) && disjointRanges rest

def configuredBanks (banks : Vector (Option BankConfig) 4) : List BankConfig :=
  bankIds.filterMap (fun b => banks.get b)

/-- The ranges of the configured banks. -/
def bankRanges (banks : List BankConfig) : List (Nat × Nat) :=
  banks.map (fun x => (x.base, x.size))

/-- Check 6. -/
def banksOk (img : Image) : Bool :=
  (configuredBanks img.banks).all bankPlaced && disjointRanges (bankRanges (configuredBanks img.banks))

/-- Check 7. -/
def bcbOk (img : Image) : Bool :=
  img.bcbBase % 4096 == 0
    && (bankRanges (configuredBanks img.banks)).any
      (fun b => decide (b.1 ≤ img.bcbBase) && decide (img.bcbBase + 4096 ≤ b.1 + b.2))

/-- Check 8. -/
def regionsOk (img : Image) : Bool :=
  slotIds.all (fun r =>
    !(img.regions.get r).enabled || decide ((img.regions.get r).base.toNat ≤ (img.regions.get r).limit.toNat))

/-- Check 9 for the entries that name one channel: at most one, and it is accepted among the others, which for an
image are all its other entries (R33). Of two entries that overlap the lower channel therefore fails first; the
worked sequence of 11.4 has the lower one pass (log 38). -/
def channelOk (bytes : List Byte) (img : Image) (c : ChanId) : Bool :=
  match (imageEntries bytes).filter (fun e => e.number == c.val) with
  | [] => true
  | [e] =>
    e.config.accepted
      ⟨bankRanges (configuredBanks img.banks), img.bcbBase,
        ((imageEntries bytes).filter (fun o => o.number != c.val)).map EntryWords.config⟩
  | _ => false

/-- The first channel that fails check 9, in ascending number. -/
def failingChannel (bytes : List Byte) (img : Image) : Option ChanId :=
  chanIds.find? (fun c => !channelOk bytes img c)

/-- The judgement of an image: the settings, or the load outcome of the first check that fails. -/
def judge (bytes : List Byte) : LoaderPhase :=
  if imageWord bytes 0 ≠ 0x22405A3C then .refused .signature 0
  else if imageWord bytes 1 ≠ 1 then .refused .format 0
  else if !lengthOk bytes then .refused .length 0
  else if !crcOk bytes then .refused .crc 0
  else if !fieldsListed bytes then .refused .badField 0
  else
    let img := imageSettings bytes
    if !banksOk img then .refused .bankLayout 0
    else if !bcbOk img then .refused .bcbPlacement 0
    else if !regionsOk img then .refused .regionRange 0
    else
      match failingChannel bytes img with
      | some c => .refused .channel c
      | none => .accepted img

/-- How many image words the read takes before it stops: it stops at the word that fails one of the first
three checks (R171). -/
def wordsClocked (bytes : List Byte) : Nat :=
  if imageWord bytes 0 ≠ 0x22405A3C then 1
  else if imageWord bytes 1 ≠ 1 then 2
  else if !lengthOk bytes then 4
  else expectedLength (channelCount bytes)

end Sys2Proof.Machine
end

