-- ==== Sys2Proof/Machine/Commands.lean ====
section
/-! DEFINITION. The command executor (10.6) and the commands it hands to their owners, but for RELOAD. -/

namespace Sys2Proof.Machine

open Sys2Proof

/-! ## Taking a command (R166) -/

def isExecuting : CommandState → Bool
  | .executing _ => true
  | .idle => false
  | .pending _ _ => false

/-- Whether a command is EXECUTING. -/
def executorBusy (s : State) : Bool :=
  isExecuting s.commands.first.state || isExecuting s.commands.second.state

/-- The PENDING command accepted earliest, with its port. -/
def oldestPending (s : State) : Option (Port × Word) :=
  match s.commands.first.state, s.commands.second.state with
  | .pending w n, .pending v m => if n ≤ m then some (.port0, w) else some (.port1, v)
  | .pending w _, _ => some (.port0, w)
  | _, .pending v _ => some (.port1, v)
  | _, _ => none

/-- The port's state becomes EXECUTING. -/
def startCommand (p : Port) (w : Word) (s : State) : State :=
  s.setCommand p { s.command p with state := .executing w }

/-- The executor, when idle, takes the oldest PENDING command, if its code is one of these. No command is
taken during LOADING (R169). -/
def takeCommand (codes : Nat → Bool) (s : State) : Option (Port × Word) :=
  if s.device = .loading || executorBusy s then none
  else
    match oldestPending s with
    | some (p, w) => if codes (commandCode w) then some (p, w) else none
    | none => none

/-- What an owner makes of a command: its outcome and the state after. -/
abbrev Owner := Port → Word → State → CommandOutcome × State

/-- A command taken, handed to its owner and ended with the owner's outcome. -/
def runCommand (codes : Nat → Bool) (owner : Owner) (s : State) : Option State :=
  match takeCommand codes s with
  | some (p, w) =>
    let r := owner p w (startCommand p w s)
    some (endCommand p r.1 r.2)
  | none => none

/-- Argument a as a channel number; above 15 no owner is consulted. -/
def withChannel (f : Port → Word → ChanId → State → CommandOutcome × State) : Owner := fun p w s =>
  if h : commandArgA w < 16 then f p w ⟨commandArgA w, h⟩ s else (.badArgument, s)

/-- Argument a as a bank number; above 3 no owner is consulted. -/
def withBank (f : BankId → State → CommandOutcome × State) : Owner := fun _ w s =>
  if h : commandArgA w < 4 then f ⟨commandArgA w, h⟩ s else (.badArgument, s)

/-- A command of one code. -/
def codeIs (n : Nat) (code : Nat) : Bool := code == n

/-! ## Channels: enable, disable, reset (R41 to R43) -/

/-- Every slot record FREE, its retired flag kept. -/
def Channel.slotsFreed (ch : Channel) : Vector Slot 8 :=
  ch.slots.map (fun x => { x.freed with copySource := false })

/-- The rotation fields at their OFF values (R34, R42). The frame counter, the last commit time, the counters
and the retired flags are kept. -/
def Channel.disabled (ch : Channel) : Channel :=
  { ch with
    state := .off
    newest := none
    committed := []
    held := .none
    filling := none
    copy := .none
    waiting := none
    deadline := .stopped
    slots := ch.slotsFreed }

/-- An enable from OFF, with the bank's service state at that moment; notices sent before are answered by it
(R37, R41, log 11). -/
def Channel.enabled (ch : Channel) (up : Bool) : Channel :=
  { ch.disabled with
    state := .live
    frames := 0
    deadline := startUnlessZero ch.config.freshness
    bankUp := up
    notices := [] }

/-- The service state now of the bank that holds a slot area (R37). -/
def State.slotBankUp (s : State) (cfg : ChannelConfig) : Bool :=
  match s.bankOf cfg.slotBase with
  | some b => s.inService b
  | none => false

/-- The changes a disable makes (R42): the copy aborted, a waiting commit answered CHANNEL_OFF. -/
def disableAt (c : ChanId) (ch : Channel) (s : State) : State :=
  answerWaiting ch.config.writer c .channelOff (abortAtEngine c ch.copy (s.setChan c (some ch.disabled)))

/-- The counters 0 and the last commit time none (R43). -/
def Channel.countsCleared (ch : Channel) : Channel :=
  { ch with dropped := 0, lost := 0, blocked := 0, empty := 0 }

/-- CHANNEL_ENABLE (R41). -/
def channelEnable (_p : Port) (_w : Word) (c : ChanId) (s : State) : CommandOutcome × State :=
  match s.chan c with
  | some ch =>
    if ch.state = .off then (.done, s.setChan c (some (ch.enabled (s.slotBankUp ch.config)))) else (.wrongState, s)
  | none => (.wrongState, s)

/-- CHANNEL_DISABLE (R42). -/
def channelDisable (_p : Port) (_w : Word) (c : ChanId) (s : State) : CommandOutcome × State :=
  match s.chan c with
  | some ch => if ch.state = .off then (.wrongState, s) else (.done, disableAt c ch s)
  | none => (.wrongState, s)

/-- The second half of a reset: counters, last commit time and flags cleared, then an enable (R43). -/
def resetAt (c : ChanId) (ch : Channel) (s : State) : State :=
  clearChannelFlags c
    (s.setChan c
      (some { (ch.disabled.countsCleared.enabled (s.slotBankUp ch.config)) with lastCommit := none }))

/-- CHANNEL_RESET (R43). -/
def channelReset (_p : Port) (_w : Word) (c : ChanId) (s : State) : CommandOutcome × State :=
  match s.chan c with
  | some ch => if ch.state = .off then (.wrongState, s) else (.done, resetAt c ch (disableAt c ch s))
  | none => (.wrongState, s)

/-! ## Channels: load and unload (R39, R40) -/

/-- A slot record after a load (R39). -/
def Slot.fresh : Slot where
  state := .free
  frame := none
  commitTime := none
  retired := false
  written := []
  copySource := false

/-- An entry just loaded: OFF, counters 0, rotation fields at their OFF values (R39, R56). -/
def Channel.loaded (cfg : ChannelConfig) (up : Bool) : Channel where
  config := cfg
  state := .off
  frames := 0
  newest := none
  committed := []
  held := .none
  filling := none
  copy := .none
  waiting := none
  deadline := .stopped
  lastCommit := none
  dropped := 0
  lost := 0
  blocked := 0
  empty := 0
  slots := Vector.replicate 8 Slot.fresh
  bankUp := up
  notices := []

/-- Whether an entry is LIVE or STALE. -/
def rotating : Option Channel → Bool
  | some ch => ch.state != .off
  | none => false

/-- A port's staging entry (R168, 12.4). -/
def stagingEntry (p : Port) (s : State) : EntryWords :=
  let v := s.staging.get p
  ⟨v.get 0, v.get 1, v.get 2, v.get 3, v.get 4, v.get 5⟩

/-- The banks in force. -/
def State.bankConfigs (s : State) : List BankConfig :=
  bankIds.filterMap (fun b => (s.bank b).config)

/-- The configured entries of the table apart from one (R33). -/
def State.otherConfigs (s : State) (c : ChanId) : List ChannelConfig :=
  (chanIds.filter (fun x => x != c)).filterMap (fun x => (s.chan x).map Channel.config)

/-- What CHANNEL_LOAD checks a staging entry against (R33). -/
def State.surroundings (s : State) (c : ChanId) : Surroundings :=
  ⟨bankRanges s.bankConfigs, s.bcbBase, s.otherConfigs c⟩

/-- CHANNEL_LOAD (R31 to R33, R39). -/
def channelLoad (p : Port) (_w : Word) (c : ChanId) (s : State) : CommandOutcome × State :=
  if rotating (s.chan c) then (.wrongState, s)
  else
    let e := stagingEntry p s
    if e.listed && e.config.accepted (s.surroundings c) then
      (.done, clearChannelFlags c (s.setChan c (some (Channel.loaded e.config (s.slotBankUp e.config)))))
    else (.badArgument, s)

/-- CHANNEL_UNLOAD (R40). The whole record is marked (R54). -/
def channelUnload (_p : Port) (_w : Word) (c : ChanId) (s : State) : CommandOutcome × State :=
  match s.chan c with
  | some ch =>
    if ch.state = .off then (.done, markAll (recordOffsets c) (clearChannelFlags c (s.setChan c none)))
    else (.wrongState, s)
  | none => (.wrongState, s)

/-! ## Slots (R38) -/

/-- The checks both slot commands make, in the order of R38's table. -/
def withSlot (f : ChanId → Channel → Fin 8 → State → CommandOutcome × State) (_p : Port) (w : Word) (c : ChanId)
    (s : State) : CommandOutcome × State :=
  match s.chan c with
  | some ch =>
    if h : commandArgB w < ch.config.depth ∧ commandArgB w < 8 then f c ch ⟨commandArgB w, h.2⟩ s
    else (.badArgument, s)
  | none => (.wrongState, s)

/-- SLOT_RETIRE: in a rotating channel a slot that was valid leaves use (R38, R47 to R50). -/
def slotRetire (c : ChanId) (ch : Channel) (i : Fin 8) (s : State) : CommandOutcome × State :=
  if (ch.slot i).retired then (.wrongState, s)
  else
    let ch1 := ch.setSlot i { ch.slot i with retired := true }
    if ch.state ≠ .off ∧ ch.valid i then (.done, slotsLeave c [i] ch1 s) else (.done, s.setChan c (some ch1))

/-- SLOT_RESTORE (R38, R52). -/
def slotRestore (c : ChanId) (ch : Channel) (i : Fin 8) (s : State) : CommandOutcome × State :=
  if (ch.slot i).retired then (.done, s.setChan c (some (ch.setSlot i { ch.slot i with retired := false })))
  else (.wrongState, s)

/-! ## Scrubber, counters, time (R142, R167, R104) -/

/-- SCRUB_START (R142). -/
def scrubStart (_p : Port) (_w : Word) (s : State) : CommandOutcome × State :=
  if s.scrub.state = .stopped then (.done, s.setScrub (scrubStarted s.scrub)) else (.wrongState, s)

/-- SCRUB_STOP: with a read in flight the command is EXECUTING until SCRUB_READ_END has made the scrubber
STOPPED; otherwise it ends at once (R142). -/
def scrubStop (s : State) : Option State :=
  match takeCommand (codeIs 0x0C) s with
  | some (p, w) =>
    let t := startCommand p w s
    match t.scrub.state with
    | .stopped => some (endCommand p .wrongState t)
    | .running .reading => some t
    | .running _ => some (endCommand p .done (t.setScrub { t.scrub with state := .stopped, timer := .stopped }))
  | none => none

/-- A counter or an overflow count 0, the record kept (R167). -/
def Capture.countCleared {α : Type} (c : Capture α) : Capture α :=
  { c with overflow := 0 }

def PortRecord.countsCleared (r : PortRecord) : PortRecord :=
  { r with faultCount := 0, capture := r.capture.countCleared }

/-- COUNTERS_CLEAR (R167). -/
def countersClear (_p : Port) (_w : Word) (s : State) : CommandOutcome × State :=
  (.done,
    { s with
      ecc := ⟨0, 0, 0⟩
      banks := s.banks.map (fun x => { x with ueCount := 0 })
      ports := ⟨s.ports.first.countsCleared, s.ports.second.countsCleared⟩
      channels := s.channels.map (fun e => e.map Channel.countsCleared)
      scrub := { s.scrub with passes := 0 }
      memCapture := s.memCapture.countCleared })

/-- TIME_ZERO (R104). -/
def timeZero (_p : Port) (_w : Word) (s : State) : CommandOutcome × State :=
  (.done, zeroTime s)

/-- An unlisted code: BAD_ARGUMENT, and no owner is consulted (R166, R177). -/
def unlisted (_p : Port) (_w : Word) (s : State) : CommandOutcome × State :=
  (.badArgument, s)

/-- The codes no command has: 0 and those above 0x0F. -/
def codeUnlisted (code : Nat) : Bool :=
  code == 0 || decide (0x0F < code)

/-! ## Meanings -/

/-- CHANNEL_ENABLE (R41, R166). -/
def execChannelEnable (s : State) : Host.Outcome State Fault Refusal :=
  .next (event s (runCommand (codeIs 0x01) (withChannel channelEnable)))

/-- CHANNEL_DISABLE (R42, R166). -/
def execChannelDisable (s : State) : Host.Outcome State Fault Refusal :=
  .next (event s (runCommand (codeIs 0x02) (withChannel channelDisable)))

/-- CHANNEL_RESET (R43, R166). -/
def execChannelReset (s : State) : Host.Outcome State Fault Refusal :=
  .next (event s (runCommand (codeIs 0x03) (withChannel channelReset)))

/-- CHANNEL_LOAD (R31 to R33, R39, R166). -/
def execChannelLoad (s : State) : Host.Outcome State Fault Refusal :=
  .next (event s (runCommand (codeIs 0x04) (withChannel channelLoad)))

/-- CHANNEL_UNLOAD (R40, R166). -/
def execChannelUnload (s : State) : Host.Outcome State Fault Refusal :=
  .next (event s (runCommand (codeIs 0x05) (withChannel channelUnload)))

/-- SLOT_RETIRE (R38, R166). -/
def execSlotRetire (s : State) : Host.Outcome State Fault Refusal :=
  .next (event s (runCommand (codeIs 0x06) (withChannel (withSlot slotRetire))))

/-- SLOT_RESTORE (R38, R52, R166). -/
def execSlotRestore (s : State) : Host.Outcome State Fault Refusal :=
  .next (event s (runCommand (codeIs 0x07) (withChannel (withSlot slotRestore))))

/-- BANK_REINSTATE (R153, R166). -/
def execBankReinstate (s : State) : Host.Outcome State Fault Refusal :=
  .next (event s (runCommand (codeIs 0x08) (withBank bankReinstate)))

/-- BANK_CLEAR_RETRIES (R154, R166). -/
def execBankClearRetries (s : State) : Host.Outcome State Fault Refusal :=
  .next (event s (runCommand (codeIs 0x09) (withBank bankClearRetries)))

/-- BANK_FENCE (R152, R166). -/
def execBankFence (s : State) : Host.Outcome State Fault Refusal :=
  .next (event s (runCommand (codeIs 0x0A) (withBank bankFence)))

/-- SCRUB_START (R142, R166). -/
def execScrubStart (s : State) : Host.Outcome State Fault Refusal :=
  .next (event s (runCommand (codeIs 0x0B) scrubStart))

/-- SCRUB_STOP (R142, R166). -/
def execScrubStop (s : State) : Host.Outcome State Fault Refusal :=
  .next (event s scrubStop)

/-- COUNTERS_CLEAR (R166, R167). -/
def execCountersClear (s : State) : Host.Outcome State Fault Refusal :=
  .next (event s (runCommand (codeIs 0x0D) countersClear))

/-- TIME_ZERO (R104, R166). -/
def execTimeZero (s : State) : Host.Outcome State Fault Refusal :=
  .next (event s (runCommand (codeIs 0x0E) timeZero))

/-- UNLISTED_COMMAND_CODE (R166, R177). -/
def execUnlistedCommandCode (s : State) : Host.Outcome State Fault Refusal :=
  .next (event s (runCommand codeUnlisted unlisted))

end Sys2Proof.Machine
end

