-- ==== Sys2Proof/Machine/Loader.lean ====
section
/-! DEFINITION. The configuration loader (chapter 11): entering LOADING by RELOAD, applying an image or the
fallback map, the initialization writes, and the end of LOADING. -/

namespace Sys2Proof.Machine

open Sys2Proof

/-! ## Entering LOADING by RELOAD (R170) -/

/-- A port's access at RELOAD: one not yet granted the memory port is answered UNAVAILABLE (R11). -/
def reloadPort (p : Port) (s : State) : State :=
  match (s.port p).phase with
  | .atChannel a _ _ => answerFault p a .unavailable s
  | .waitingCommit a _ => answerFault p a .unavailable s
  | .keptBack a _ _ _ => answerFault p a .unavailable s
  | .atArbiter a _ => answerFault p a .unavailable s
  | .held _ => s
  | .idle => s
  | .granted _ _ => s
  | .handover _ _ _ _ => s

/-- The hold limits in force from LOADING's begin by RELOAD (R8). -/
def defaultHold (s : State) : State :=
  { s with
    ports := ⟨{ s.ports.first with holdLimit := 10000 }, { s.ports.second with holdLimit := 10000 }⟩ }

/-- Whether the copy engine's operation holds the memory port. -/
def copyHoldsPort (s : State) : Bool :=
  match s.arbiter.busy with
  | some ⟨.copy, _⟩ => true
  | _ => false

/-- The copy engine at RELOAD: its queue emptied, only an operation that holds the memory port runs on
(R98). -/
def reloadCopy (s : State) : CopyEngine :=
  match s.copy.state.job with
  | some j => if copyHoldsPort s then ⟨[], .draining j, false⟩ else ⟨[], .idle, false⟩
  | none => ⟨[], .idle, false⟩

/-- The mirror writer at RELOAD: the set emptied, a waiting request dropped (R128, R158). -/
def reloadMirror (m : Mirror) : Mirror :=
  match m.request with
  | .inFlight w => ⟨[], m.last, .inFlight w⟩
  | .none => ⟨[], m.last, .none⟩
  | .waiting _ => ⟨[], m.last, .none⟩
  | .timedOut _ => ⟨[], m.last, .none⟩

/-- A bank at RELOAD: its retry timer and its probe are discarded (R156). -/
def reloadBank (x : Bank) : Bank :=
  { x with retryTimer := .stopped, probe := .none }

/-- The run-time state of a channel discarded (R56). -/
def reloadChannel (ch : Channel) : Channel :=
  Channel.loaded ch.config ch.bankUp

/-- A PENDING command of the other port is discarded without an outcome (R169). -/
def discardPending (c : PortCommand) : PortCommand :=
  match c.state with
  | .pending _ _ => { c with state := .idle }
  | .idle => c
  | .executing _ => c

/-- The records of the blocks as LOADING begins by RELOAD (R8, R22, R98, R102, R128, R143, R156, R158, R169). With
their requests withdrawn the two pass-over counts are 0 (R121). -/
def reloadBlocks (s : State) : State :=
  { s with
    device := .loading
    resetCause := .reload
    loader := .fresh .reading
    msCount := 0
    usInMs := 0
    regions := s.regions.map (fun r => { r with enabled := false })
    banks := s.banks.map reloadBank
    timeoutReports := []
    stormReports := []
    channels := s.channels.map (fun e => e.map reloadChannel)
    copy := reloadCopy s
    arbiter := { s.arbiter with lock := none, copyPass := 0, mirrorPass := 0 }
    scrub := ⟨.stopped, none, s.scrub.interval, .stopped, 0, none⟩
    mirror := reloadMirror s.mirror
    commands := ⟨discardPending s.commands.first, discardPending s.commands.second⟩ }

/-- LOADING begins in the step in which the executor takes RELOAD (R170). -/
def enterLoading (s : State) : State :=
  reloadPort .port1 (reloadPort .port0 (defaultHold (reloadBlocks s)))

/-- RELOAD: it stays EXECUTING through LOADING (R169). -/
def reloadCommand (s : State) : Option State :=
  match takeCommand (codeIs 0x0F) s with
  | some (p, w) => some (enterLoading (startCommand p w s))
  | none => none

/-! ## Reading (R171 to R173) -/

/-- The select output of the configuration port: active while the one read transaction of the image runs (R171). -/
def State.configSelect (s : State) : Bool :=
  !s.pinAsserted && s.device == .loading && s.loader.phase == .reading

/-- What the loader sends in the read transaction: the read command byte and the three address bytes (R171). -/
def readCommand : List Byte := [0x03, 0x00, 0x00, 0x00]

/-- The bytes the configuration port's data output sends in the transaction in progress (R171); the bytes after them
are clocked in. Nothing is sent while the select is inactive. -/
def State.configSent (s : State) : List Byte :=
  if s.configSelect then readCommand else []

/-- IMAGE_READ_END: the read ends and the image is judged. -/
def imageReadEnd (bytes : List Byte) (s : State) : Option State :=
  if s.device = .loading ∧ s.loader.phase = .reading then
    some { s with loader := { s.loader with phase := judge bytes, wordsRead := wordsClocked bytes } }
  else none

/-! ## The end of LOADING (R137, R164, R169, R174) -/

/-- The port whose RELOAD has been EXECUTING, with its command word (R169). -/
def reloadIssuer (s : State) : Option (Port × Word) :=
  match s.commands.first.state, s.commands.second.state with
  | .executing w, _ => some (.port0, w)
  | _, .executing w => some (.port1, w)
  | _, _ => none

/-- A port's command record as LOADING ends (R169). -/
def freshCommand (issuer : Option (Port × Word)) (p : Port) : PortCommand :=
  match issuer with
  | some (q, w) => if q = p then ⟨.idle, w, .done, none⟩ else PortCommand.reset
  | none => PortCommand.reset

/-- CMD_DONE on the RELOAD issuer's line (R161, R169). -/
def raiseIssuer (issuer : Option (Port × Word)) (s : State) : State :=
  match issuer with
  | some (p, _) => raiseGlobal p .cmdDone s
  | none => s

/-- The fault counter 0 and the capture empty (R11, R164). -/
def PortRecord.faultsFresh (r : PortRecord) : PortRecord :=
  { r with faultCount := 0, capture := ⟨none, 0⟩ }

/-- A port under a new hold limit; a timer that runs keeps its time (R8). -/
def PortRecord.limited (r : PortRecord) (limit : BitVec 16) : PortRecord :=
  { r with holdLimit := limit }

/-- An entry enabled when its configuration says so; all banks are IN_SERVICE then (R41, R174). -/
def startChannel (s : State) (ch : Channel) : Channel :=
  if ch.config.enableAtStart then ch.enabled (s.slotBankUp ch.config) else ch

/-- The scrubber as LOADING ends (R137). -/
def startScrub (s : State) : Scrubber :=
  let x : Scrubber := ⟨.stopped, s.eligibleFrom 0, s.scrub.interval, .stopped, 0, none⟩
  if s.loader.scrubAutoStart then scrubStarted x else x

/-- A handover not yet taken is answered by its memory outcome; its effect is replaced with everything else
that starts anew. -/
def finishHandover (p : Port) (s : State) : State :=
  match (s.port p).phase with
  | .handover a _ _ ending => giveAnswer p a ⟨[], ending⟩ a.addr a.locked s
  | _ => s

/-- The counters, flags, masks, captures, results and staging copies start anew (R55, R134, R136, R161, R162, R164,
R168, R169), the copy engine and the arbiter are as after reset (R98, R120), the channels enabled at start and the
scrubber start, the dirty set takes every offset (R158). -/
def freshBlocks (dev : Device) (why : LoadOutcome) (c : ChanId) (s : State) : State :=
  { s with
    device := dev
    loadOutcome := why
    failedChannel := c
    loader := { s.loader with phase := .idle, heldTimeouts := [] }
    ports := ⟨s.ports.first.faultsFresh, s.ports.second.faultsFresh⟩
    timeoutReports := []
    stormReports := []
    channels := s.channels.map (fun e => e.map (startChannel s))
    copy := ⟨[], .idle, false⟩
    arbiter := ⟨none, none, .port1, 0, 0⟩
    ecc := ⟨0, 0, 0⟩
    memCapture := ⟨none, 0⟩
    scrub := startScrub s
    globalFlags := ⟨Vector.replicate 9 .clear, Vector.replicate 9 .clear⟩
    channelFlags := Vector.replicate 16 (Vector.replicate 7 .clear)
    globalMask := ⟨0, 0⟩
    channelMask := ⟨0, 0⟩
    mirror := ⟨allOffsets, 1023, .none⟩
    commands := ⟨freshCommand (reloadIssuer s) .port0, freshCommand (reloadIssuer s) .port1⟩
    staging := ⟨Vector.replicate 16 0, Vector.replicate 16 0⟩ }

/-- CONFIG_FALLBACK on both lines when the device enters FALLBACK (R175). -/
def raiseFallback (dev : Device) (s : State) : State :=
  match dev with
  | .fallback => raiseBoth .configFallback s
  | .run => s
  | .loading => s

/-- The TIMEOUTs of initialization writes, held until now, taken as faults (R127, R156). -/
def takeHeldTimeouts (bs : List BankId) (s : State) : State :=
  bs.foldl (fun t b => timeoutFault b t) s

/-- A held access form-checked and decoded (R10). -/
def admitHeld (p : Port) (s : State) : State :=
  match (s.port p).phase with
  | .held a => admitAccess p a s
  | _ => s

/-- The end of LOADING: step 3 of R174 onwards. Held accesses come last, port 0's before port 1's (log 16). -/
def endLoading (dev : Device) (why : LoadOutcome) (c : ChanId) (s : State) : State :=
  let h := finishHandover .port1 (finishHandover .port0 s)
  let t := raiseFallback dev (raiseIssuer (reloadIssuer h) (freshBlocks dev why c h))
  admitHeld .port1 (admitHeld .port0 (takeHeldTimeouts s.loader.heldTimeouts t))

/-! ## Applying the settings (R174, R175) -/

/-- A bank's record as the settings are applied: configured means IN_SERVICE (R113, R144). -/
def freshBank (cfg : Option BankConfig) : Bank :=
  { Bank.reset with config := cfg, service := if cfg.isSome then .inService else .unused }

/-- The settings of an image taking effect together (R174, step 1), the hold limits and the clock frequency among
them (log 14). The flags of the channels of the table that is replaced go with it, so that no line rises by the new
table's routing (R162, log 28). -/
def applySettings (img : Image) (s : State) : State :=
  { s with
    loader := { s.loader with scrubAutoStart := img.scrubAutoStart }
    clockMHz := img.clockMHz
    ports := ⟨s.ports.first.limited img.holdLimits.first, s.ports.second.limited img.holdLimits.second⟩
    defaultAccess := img.defaultAccess
    bcbBase := img.bcbBase
    regions := img.regions
    banks := img.banks.map freshBank
    channels := img.channels.map (fun cfg => cfg.map (fun x => Channel.loaded x true))
    channelFlags := Vector.replicate 16 (Vector.replicate 7 .clear)
    scrub := ⟨.stopped, none, img.scrubInterval, .stopped, 0, none⟩ }

/-- Whether a bank is to be written to zero (R127). -/
def State.needsInit (s : State) (b : BankId) : Bool :=
  match (s.bank b).config with
  | some cfg => cfg.initAtStart
  | none => false

/-- An initialization write of a word, granted at once (R127). -/
def startInit (b : BankId) (addr : Nat) (s : State) : State :=
  ({ s with loader := { s.loader with phase := .initWrite b } }).occupy (.initWrite b addr)

/-- The first bank from number `n` on that is to be initialized, or the end of LOADING. -/
def initFrom (n : Nat) (s : State) : State :=
  match bankIds.find? (fun b => decide (n ≤ b.val) && s.needsInit b) with
  | some b => startInit b (s.bankBase b) s
  | none => endLoading .run .ok 0 s

/-- APPLY_IMAGE: the image has passed every check and no operation holds the memory port (R174). -/
def applyImage (s : State) : Option State :=
  match s.loader.phase with
  | .accepted img =>
    if s.device = .loading ∧ s.arbiter.busy = none then some (initFrom 0 (applySettings img s)) else none
  | _ => none

/-- The fallback map (R175). -/
def fallbackImage : Image where
  clockMHz := 200
  holdLimits := ⟨10000, 10000⟩
  bcbBase := 0x7FF000
  defaultAccess := ⟨.readWrite, .readWrite⟩
  scrubInterval := 0
  scrubAutoStart := false
  banks :=
    ⟨#[some {
        base := 0
        size := 0x800000
        checkCode := false
        initAtStart := false
        readWaits := 15
        writeWaits := 15
        readyTimeout := none
        retryMode := .off
        retryPeriod := 10
        stormThreshold := 0
        probeOffset := 0 }, none, none, none], rfl⟩
  regions := Vector.replicate 8 Region.reset
  channels := Vector.replicate 16 none

/-- FALLBACK_APPLY: a check has failed and no operation holds the memory port (R175). -/
def fallbackApply (s : State) : Option State :=
  match s.loader.phase with
  | .refused why c =>
    if s.device = .loading ∧ s.arbiter.busy = none then
      some (endLoading .fallback why c (applySettings fallbackImage s))
    else none
  | _ => none

/-! ## Initialization writes (R127) -/

/-- After a completed initialization write: the next word of the bank, or the next bank. -/
def afterInit (b : BankId) (addr : Nat) (s : State) : State :=
  if (s.bank b).lastWord addr then initFrom (b.val + 1) s else startInit b (addr + 4) s

/-- INIT_WRITE_END: the write of zero ends, or the TIMEOUT that ended it is taken and the loader leaves that
bank. -/
def initWriteEnd (s : State) : Option State :=
  if s.device = .loading then
    match s.arbiter.busy with
    | some ⟨.initWrite b addr, _⟩ => some (afterInit b addr (storeWord b addr 0 (s.setBusy none)))
    | _ =>
      match s.loader.phase with
      | .initTimedOut b => some (initFrom (b.val + 1) s)
      | _ => none
  else none

/-! ## Meanings -/

/-- RELOAD (R11, R169, R170). -/
def execReload (s : State) : Host.Outcome State Fault Refusal :=
  .next (event s reloadCommand)

/-- IMAGE_READ_END (R171 to R173, R177). -/
def execImageReadEnd (bytes : List Byte) (s : State) : Host.Outcome State Fault Refusal :=
  .next (event s (imageReadEnd bytes))

/-- APPLY_IMAGE (R174). -/
def execApplyImage (s : State) : Host.Outcome State Fault Refusal :=
  .next (event s applyImage)

/-- FALLBACK_APPLY (R175). -/
def execFallbackApply (s : State) : Host.Outcome State Fault Refusal :=
  .next (event s fallbackApply)

/-- INIT_WRITE_END (R127, R174). -/
def execInitWriteEnd (s : State) : Host.Outcome State Fault Refusal :=
  .next (event s initWriteEnd)

end Sys2Proof.Machine
end

