-- ==== Sys2Proof/Machine/Reset.lean ====
section
/-! DEFINITION. The pin reset (R129, R170): the operation that holds the memory port is cut off, every block
is in its reset condition while the reset is asserted, and LOADING begins at its release. -/

namespace Sys2Proof.Machine

open Sys2Proof

/-- What an operation that holds the memory port does to memory under a budget of word accesses. -/
def cutOperation (op : BusyOp) (bud : Option Nat) (s : State) : State :=
  match op with
  | .port p =>
    match (s.port p).phase with
    | .granted _ o => (portRun p o bud s).2
    | _ => s
  | .copy =>
    match s.copy.state.job with
    | some j => (copyRun j bud s).2
    | none => s
  | .mirror =>
    match s.mirror.request with
    | .inFlight w =>
      match spend bud with
      | some _ => storeWord w.bank w.addr w.value s
      | none => s
    | _ => s
  | .scrub b addr => (readAccess .scrub b addr bud s).2.2
  | .probe b addr => (readAccess .probe b addr bud s).2.2
  | .initWrite b addr =>
    match spend bud with
    | some _ => storeWord b addr 0 s
    | none => s

/-- The memory after the cut: each word of the operation in progress is old or new, the words before the one
being written new and the later ones old; how far it had got is a free value (R129, log 6). -/
def cutOff (s : State) : State :=
  match s.arbiter.busy with
  | some busy =>
    { cutOperation busy.op (some (Config.accessesBeforeCut s.freeCount)) s with freeCount := s.freeCount + 1 }
  | none => s

/-- PIN_RESET: every block in its reset condition; only the memory, the queue and the count of free values
stay (R11, R129, R170). -/
def pinResetState (s : State) : State :=
  let t := cutOff s
  { State.reset with
    pinAsserted := true
    loader := .fresh .idle
    ram := t.ram
    lanes := t.lanes
    freeCount := t.freeCount
    pending := s.pending }

/-- PIN_RESET_RELEASE: LOADING begins with cause PIN (R170); a reset that is not asserted is not released. -/
def pinReleaseState (s : State) : State :=
  if s.pinAsserted then
    { s with
      pinAsserted := false
      device := .loading
      resetCause := .pin
      loader := .fresh .reading }
  else s

/-- PIN_RESET (R11, R129, R170). -/
def execPinReset (s : State) : Host.Outcome State Fault Refusal :=
  .next (pinResetState s)

/-- PIN_RESET_RELEASE (R170). -/
def execPinResetRelease (s : State) : Host.Outcome State Fault Refusal :=
  .next (pinReleaseState s)

end Sys2Proof.Machine
end

