-- ==== Sys2Proof/Machine/Dispatch.lean ====
section
/-! DEFINITION. What each command does: one arm for each constructor, one call of its meaning. -/

namespace Sys2Proof.Machine

open Sys2Proof

def exec (i : Instr) (s : State) : Host.Outcome State Fault Refusal :=
  match i with
  | .pinReset => Sys2Proof.Machine.execPinReset s
  | .pinResetRelease => Sys2Proof.Machine.execPinResetRelease s
  | .microsecondTick => Sys2Proof.Machine.execMicrosecondTick s
  | .millisecondAdvance => Sys2Proof.Machine.execMillisecondAdvance s
  | .portAccess p a => Sys2Proof.Machine.execPortAccess p a s
  | .writerDataWrite p => Sys2Proof.Machine.execWriterDataWrite p s
  | .writerDataRead p => Sys2Proof.Machine.execWriterDataRead p s
  | .writerTagRead p => Sys2Proof.Machine.execWriterTagRead p s
  | .commit p => Sys2Proof.Machine.execCommit p s
  | .discard p => Sys2Proof.Machine.execDiscard p s
  | .readerTagRead p => Sys2Proof.Machine.execReaderTagRead p s
  | .readerDataRead p => Sys2Proof.Machine.execReaderDataRead p s
  | .release p => Sys2Proof.Machine.execRelease p s
  | .arbiterGrant => Sys2Proof.Machine.execArbiterGrant s
  | .portOperationEnd p => Sys2Proof.Machine.execPortOperationEnd p s
  | .readyTimeout waits => Sys2Proof.Machine.execReadyTimeout waits s
  | .holdExpired p => Sys2Proof.Machine.execHoldExpired p s
  | .freshnessExpiry c => Sys2Proof.Machine.execFreshnessExpiry c s
  | .copyTakeHead => Sys2Proof.Machine.execCopyTakeHead s
  | .copyOperationEnd => Sys2Proof.Machine.execCopyOperationEnd s
  | .copyCompletion => Sys2Proof.Machine.execCopyCompletion s
  | .copyFailure => Sys2Proof.Machine.execCopyFailure s
  | .copyAbortNotice => Sys2Proof.Machine.execCopyAbortNotice s
  | .mirrorWriteRequest => Sys2Proof.Machine.execMirrorWriteRequest s
  | .mirrorWriteEnd => Sys2Proof.Machine.execMirrorWriteEnd s
  | .scrubIntervalExpiry => Sys2Proof.Machine.execScrubIntervalExpiry s
  | .scrubReadEnd => Sys2Proof.Machine.execScrubReadEnd s
  | .timeoutReport b => Sys2Proof.Machine.execTimeoutReport b s
  | .storm b => Sys2Proof.Machine.execStorm b s
  | .retryTimerExpiry b => Sys2Proof.Machine.execRetryTimerExpiry b s
  | .probeEnd b => Sys2Proof.Machine.execProbeEnd b s
  | .leavingNotice c => Sys2Proof.Machine.execLeavingNotice c s
  | .enteringNotice c => Sys2Proof.Machine.execEnteringNotice c s
  | .channelEnable => Sys2Proof.Machine.execChannelEnable s
  | .channelDisable => Sys2Proof.Machine.execChannelDisable s
  | .channelReset => Sys2Proof.Machine.execChannelReset s
  | .channelLoad => Sys2Proof.Machine.execChannelLoad s
  | .channelUnload => Sys2Proof.Machine.execChannelUnload s
  | .slotRetire => Sys2Proof.Machine.execSlotRetire s
  | .slotRestore => Sys2Proof.Machine.execSlotRestore s
  | .bankReinstate => Sys2Proof.Machine.execBankReinstate s
  | .bankClearRetries => Sys2Proof.Machine.execBankClearRetries s
  | .bankFence => Sys2Proof.Machine.execBankFence s
  | .scrubStart => Sys2Proof.Machine.execScrubStart s
  | .scrubStop => Sys2Proof.Machine.execScrubStop s
  | .countersClear => Sys2Proof.Machine.execCountersClear s
  | .timeZero => Sys2Proof.Machine.execTimeZero s
  | .reload => Sys2Proof.Machine.execReload s
  | .globalMaskWrite p => Sys2Proof.Machine.execGlobalMaskWrite p s
  | .channelMaskWrite p => Sys2Proof.Machine.execChannelMaskWrite p s
  | .globalAck p => Sys2Proof.Machine.execGlobalAck p s
  | .channelAck p => Sys2Proof.Machine.execChannelAck p s
  | .captureAck p => Sys2Proof.Machine.execCaptureAck p s
  | .stagingWrite p => Sys2Proof.Machine.execStagingWrite p s
  | .imageReadEnd bytes => Sys2Proof.Machine.execImageReadEnd bytes s
  | .applyImage => Sys2Proof.Machine.execApplyImage s
  | .fallbackApply => Sys2Proof.Machine.execFallbackApply s
  | .initWriteEnd => Sys2Proof.Machine.execInitWriteEnd s
  | .unlistedCommandCode => Sys2Proof.Machine.execUnlistedCommandCode s
  | .readerDataWrite p => Sys2Proof.Machine.execReaderDataWrite p s

end Sys2Proof.Machine
end

