-- ==== Sys2Proof/Safety.lean ====
section
/-! DEFINITION. What must hold of every state the part can be in: the invariants that every step keeps, and
the situations that statements name. -/

namespace Sys2Proof.Machine

open Sys2Proof

/-! ## Situations -/

/-- RUN or FALLBACK, with the pin reset not asserted. -/
def State.operating (s : State) : Prop :=
  s.pinAsserted = false ∧ s.device ≠ .loading

/-- Port `p` may present an access: the part is operating, the port is IDLE and holds no open lock. -/
def State.free (s : State) (p : Port) : Prop :=
  s.operating ∧ (s.port p).phase = .idle ∧ (∀ l, s.arbiter.lock = some l → l.port ≠ p)

/-- An access of port `p` was handed to the exchange engine, and the channel is LIVE or STALE and its window
still holds the access. -/
def State.handed (s : State) (p : Port) (a : Access) (c : ChanId) (off : Nat) (ch : Channel) : Prop :=
  s.pinAsserted = false ∧ (s.port p).phase = .atChannel a c off ∧ s.chan c = some ch ∧ ch.state ≠ .off
    ∧ off + wordCount a ≤ ch.config.len

/-- The executor is idle and takes port `p`'s command `w` (R166). -/
def State.takes (s : State) (p : Port) (w : Word) : Prop :=
  s.operating ∧ executorBusy s = false ∧ oldestPending s = some (p, w)

/-- Port `p`'s operation holds the memory port. -/
def State.running (s : State) (p : Port) (a : Access) (op : PortOp) : Prop :=
  s.pinAsserted = false ∧ (∃ r, s.arbiter.busy = some ⟨.port p, r⟩) ∧ (s.port p).phase = .granted a op

/-! ## Invariants -/

/-- Both parts of the static RAM are in canonical form. -/
def memoryCanonical (s : State) : Prop :=
  Memory.wf s.ram = true ∧ Memory.wf s.lanes = true

/-- Ascending without repetition. -/
def ascending : List Nat → Prop
  | [] => True
  | x :: xs => (∀ y ∈ xs, x < y) ∧ ascending xs

/-- The dirty set has no duplicates; it is kept ascending (R158). -/
def dirtySetOrdered (s : State) : Prop :=
  ascending s.mirror.dirty

/-- The pass-over counts never exceed 8 (R121). -/
def fairnessBounded (s : State) : Prop :=
  s.arbiter.copyPass ≤ 8 ∧ s.arbiter.mirrorPass ≤ 8

/-- While LOADING lasts the millisecond count and the position within the millisecond are 0, no lock is open
and the dirty set is empty; the pin reset is asserted in LOADING only (R102, R119, R158, R170). -/
def loadingQuiet (s : State) : Prop :=
  (s.pinAsserted = true → s.device = .loading) ∧
  (s.device = .loading →
    s.msCount = 0 ∧ s.usInMs = 0 ∧ s.arbiter.lock = none ∧ s.mirror.dirty = [])

/-- The rotation law of a channel. The filling field names the one FILLING slot; the newest slot, the held slot and
the entries of the committed list are COMMITTED; the list has no duplicates; LATEST does not use the list, QUEUE
does not use the newest slot (R36). A slot that is not FREE is one of the D slots (R35). In LATEST every COMMITTED
slot is the newest or the held one (R60). In QUEUE every COMMITTED slot is in the list, the held one is its head,
and the list has at most D entries (R72, R75). -/
def Channel.lawful (ch : Channel) : Prop :=
  (∀ i : Fin 8, (ch.slot i).state = .filling ↔ ch.filling = some i) ∧
  (∀ i, ch.newest = some i → (ch.slot i).state = .committed) ∧
  (∀ i, ch.held = .slot i → (ch.slot i).state = .committed) ∧
  (∀ i ∈ ch.committed, (ch.slot i).state = .committed) ∧
  ch.committed.Nodup ∧
  (ch.config.mode = .latest → ch.committed = []) ∧
  (ch.config.mode = .queue → ch.newest = none) ∧
  (∀ i : Fin 8, (ch.slot i).state ≠ .free → i.val < ch.config.depth) ∧
  (ch.config.mode = .latest → ∀ i : Fin 8, (ch.slot i).state = .committed → ch.newest = some i ∨ ch.held = .slot i) ∧
  (ch.config.mode = .queue → ∀ i : Fin 8, (ch.slot i).state = .committed → i ∈ ch.committed) ∧
  (ch.config.mode = .queue → ∀ i, ch.held = .slot i → ch.committed.head? = some i) ∧
  (ch.config.mode = .queue → ch.committed.length ≤ ch.config.depth)

/-- Every configured channel keeps the rotation law. -/
def channelsLawful (s : State) : Prop :=
  ∀ c ch, s.chan c = some ch → ch.lawful

end Sys2Proof.Machine
end

