-- ==== Sys2Proof/Certificates/Slice0/Obligations.lean ====
section
/-! DEFINITION. The statements for the provers. In most of them the state after a step is written out as a
record update of the state before it, inside `settle`, which adds the changed words to the dirty set and
touches nothing else (`Obligations.StepsMarkChangedWords`): so each says what the step changes, what it leaves,
and that the step is taken. -/

open Sys2Proof Sys2Proof.Machine

/-! ## The machine -/

/-- A step is exec of the command at the front of the queue, on the state with the queue's rest. -/
def Obligations.StepRunsFrontCommand : Prop :=
  ∀ (c : Instr) (rest : List Instr) (s : State),
    step { s with pending := c :: rest } = exec c { s with pending := rest }

/-- Every command answers a next state and leaves the queue as it is: the part never stops. On an empty queue the part
idles: the model's choice (log 2). -/
def Obligations.EveryCommandCompletes : Prop :=
  (∀ (c : Instr) (s : State), ∃ t, exec c s = .next t ∧ t.pending = s.pending)
  ∧ (∀ s : State, s.pending = [] → step s = .next s)

/-- The part as LOADING begins after pin reset, with the loader's read transaction open (its select active, the read
command and a zero address sent); and that state meets the five invariants. Of what is said of it, the empty port
captures, the UNCONFIGURED channel entries and the low lines (flags CLEAR, masks 0) are stated by the spec for the end
of LOADING only and are the model's choice here (log 4). -/
def Obligations.ResetAsStated : Prop :=
  State.reset.device = .loading ∧ State.reset.resetCause = .pin ∧ State.reset.loader.phase = .reading
    ∧ State.reset.clockMHz = 200 ∧ State.reset.msCount = 0 ∧ State.reset.usInMs = 0
    ∧ (∀ p, (State.reset.port p).phase = .idle ∧ (State.reset.port p).hold = .stopped
        ∧ (State.reset.port p).holdLimit = 10000 ∧ (State.reset.port p).faultCount = 0
        ∧ (State.reset.port p).capture = ⟨none, 0⟩)
    ∧ (∀ b, (State.reset.bank b).config = none ∧ (State.reset.bank b).service = .unused)
    ∧ (∀ c, State.reset.chan c = none)
    ∧ (∀ r, (State.reset.regions.get r).enabled = false)
    ∧ State.reset.copy = ⟨[], .idle, false⟩
    ∧ State.reset.arbiter = ⟨none, none, .port1, 0, 0⟩
    ∧ State.reset.mirror.dirty = []
    ∧ (∀ p, State.reset.line p = false)
    ∧ State.reset.configSelect = true ∧ State.reset.configSent = [0x03, 0, 0, 0]
    ∧ memoryCanonical State.reset ∧ dirtySetOrdered State.reset ∧ fairnessBounded State.reset
    ∧ loadingQuiet State.reset ∧ channelsLawful State.reset

/-- Pin reset with no operation at the memory port: every block in its reset condition, the memory kept. Its release:
LOADING with cause PIN, the loader reading. A release without an asserted reset has no effect (log 2). While the pin
reset is asserted every block is held: no command but the two of the pin reset has an effect. A burst write cut off by
pin reset: the words before some point are new, the others old; how far it had got is not stated (log 6). -/
def Obligations.PinResetAndRelease : Prop :=
  (∀ s : State, s.arbiter.busy = none →
    exec .pinReset s = .next
      { State.reset with
        pinAsserted := true, loader := .fresh .idle, ram := s.ram, lanes := s.lanes
        freeCount := s.freeCount, pending := s.pending })
  ∧ (∀ s : State, s.pinAsserted = true →
    exec .pinResetRelease s = .next
      { s with
        pinAsserted := false, device := .loading, resetCause := .pin, loader := .fresh .reading })
  ∧ (∀ s : State, s.pinAsserted = false → exec .pinResetRelease s = .next s)
  ∧ (∀ (c : Instr) (s : State), s.pinAsserted = true → c ≠ .pinReset → c ≠ .pinResetRelease → exec c s = .next s)
  ∧ (∀ (s : State) (p : Port) (a : Access) (op : PortOp) (n : Nat),
     s.arbiter.busy = some ⟨.port p, n⟩ → (s.port p).phase = .granted a op →
     op.write = true → op.size = 4 →
     ∃ t k, exec .pinReset s = .next t
       ∧ t.ram = (((op.addrs.zip op.data).take k).foldl (fun u e => storeWord op.bank e.1 e.2 u) s).ram
       ∧ t.lanes = (((op.addrs.zip op.data).take k).foldl (fun u e => storeWord op.bank e.1 e.2 u) s).lanes)

/-- After a step every BCB word whose shown value the step changed is in the dirty set, or a mirror write of it with
its new value was granted in that step. Settling touches the dirty set only: outside LOADING no offset leaves it, and
those that join are marked with a word that changed; during LOADING it is empty (log 17). A bank's two status words
are marked together, so are the four words of a capture, and any other word is marked alone. -/
def Obligations.StepsMarkChangedWords : Prop :=
  (∀ (c : Instr) (s t : State) (off : Nat),
     exec c s = .next t → t.device ≠ .loading → mirrorWord s off ≠ mirrorWord t off →
     off ∈ t.mirror.dirty
       ∨ (c = .arbiterGrant ∧ ∃ w, t.mirror.request = .inFlight w ∧ w.off = off ∧ w.value = mirrorWord t off))
  ∧ (∀ s t : State,
     settle s t = { t with mirror := { t.mirror with dirty := (settle s t).mirror.dirty } }
     ∧ (t.device = .loading → (settle s t).mirror.dirty = [])
     ∧ (t.device ≠ .loading → ∀ off, off ∈ (settle s t).mirror.dirty ↔
         off ∈ t.mirror.dirty ∨ ∃ k ∈ markedWith off, mirrorWord s k ≠ mirrorWord t k))
  ∧ (∀ (b : BankId) (k : Fin 2), markedWith (80 + 2 * b.val + k.val) = [80 + 2 * b.val, 81 + 2 * b.val])
  ∧ (∀ (n : Fin 3) (k : Fin 4),
     markedWith (68 + 4 * n.val + k.val) = [68 + 4 * n.val, 69 + 4 * n.val, 70 + 4 * n.val, 71 + 4 * n.val])
  ∧ (∀ off, off < 68 ∨ 88 ≤ off → markedWith off = [off])

/-! ## Invariants that every step keeps -/

/-- Both parts of the memory stay in canonical form. -/
def Obligations.MemoryStaysCanonical : Prop :=
  ∀ s t : State, memoryCanonical s → step s = .next t → memoryCanonical t

/-- The dirty set never holds an offset twice. The pass-over counts never exceed 8. Throughout LOADING the time stands
at 0, no lock is open (a locked read that ends in LOADING opens none, log 18) and the dirty set is empty (log 17). -/
def Obligations.ControlStaysBounded : Prop :=
  (∀ s t : State, dirtySetOrdered s → step s = .next t → dirtySetOrdered t)
  ∧ (∀ s t : State, fairnessBounded s → step s = .next t → fairnessBounded t)
  ∧ (∀ s t : State, loadingQuiet s → step s = .next t → loadingQuiet t)

/-- Every channel keeps the rotation law: in LATEST every COMMITTED slot is the newest or the held one; in QUEUE the
COMMITTED slots are those of the committed list, whose head is the held slot and which has at most D entries. -/
def Obligations.ChannelsStayLawful : Prop :=
  ∀ s t : State, channelsLawful s → step s = .next t → channelsLawful t

/-- What every BCB word shows (12.1, 12.2): the single words, the flag words, the captures and the status records,
field by field, and the numbers their encodings give (12.5); an empty capture and an UNCONFIGURED record show zero,
and so does every word without a mirrored meaning, writable (command, ack and staging words) or not. The phase of a
STOPPED scrubber and the position field while the position is none are open (log 7). That the copy queue's entry
fields past its length, the fields of slots that do not exist in word 7 of a channel record and the device state field
during LOADING show 0 is the model's choice (log 42). -/
def Obligations.MirrorWordLayouts : Prop :=
  (∀ s : State,
     bitsOf (mirrorWord s 0) 0 2 = (match s.device with | .loading => 0 | .run => 1 | .fallback => 2)
     ∧ bitsOf (mirrorWord s 0) 4 4 = loadOutcomeNat s.loadOutcome
     ∧ bitsOf (mirrorWord s 0) 8 4 = s.failedChannel.val
     ∧ bitsOf (mirrorWord s 0) 12 1 = (match s.resetCause with | .pin => 0 | .reload => 1)
     ∧ mirrorWord s 1 = s.msCount
     ∧ (∀ l, mirrorWord s (6 + portNat l) = s.globalMask.get l ∧ mirrorWord s (8 + portNat l) = s.channelMask.get l)
     ∧ bitsOf (mirrorWord s 64) 0 16 = s.ecc.corrected.toNat
     ∧ bitsOf (mirrorWord s 64) 16 16 = s.ecc.uncorrectable.toNat
     ∧ bitsOf (mirrorWord s 65) 0 16 = s.ecc.poisonReads.toNat
     ∧ (∀ b : BankId, bitsOf (mirrorWord s 66) (8 * b.val) 8 = (s.bank b).ueCount.toNat)
     ∧ (∀ p, bitsOf (mirrorWord s 67) (8 * portNat p) 8 = (s.port p).faultCount.toNat))
  ∧ (∀ (s : State) (p : Port),
     bitsOf (mirrorWord s (4 + portNat p)) 0 8 = commandCode (s.command p).echo
     ∧ bitsOf (mirrorWord s (4 + portNat p)) 8 4 = commandArgA (s.command p).echo % 16
     ∧ bitsOf (mirrorWord s (4 + portNat p)) 12 4 = commandArgB (s.command p).echo % 16
     ∧ bitsOf (mirrorWord s (4 + portNat p)) 16 3 = commandOutcomeNat (s.command p).outcome
     ∧ bitsOf (mirrorWord s (4 + portNat p)) 20 1 = (if (s.command p).refused = none then 0 else 1)
     ∧ bitsOf (mirrorWord s (4 + portNat p)) 24 8 =
         (match (s.command p).refused with | none => 0 | some code => code.toNat))
  ∧ (∀ s : State,
     (∀ (l : Port) (n : Fin 9),
       bitsOf (mirrorWord s (14 + portNat l)) n.val 1 = if s.globalStage l n = .clear then 0 else 1)
     ∧ (∀ (c : ChanId) (n : Fin 7),
       bitsOf (mirrorWord s (16 + c.val)) n.val 1 = if s.channelStage c n = .clear then 0 else 1))
  ∧ (∀ (s : State) (p : Port) (k : Fin 4),
     (s.port p).capture.record = none → mirrorWord s (68 + 4 * portNat p + k.val) = 0)
  ∧ (∀ (s : State) (p : Port) (r : PortFault), (s.port p).capture.record = some r → r.burst < 16 →
     bitsOf (mirrorWord s (68 + 4 * portNat p)) 0 24 = r.addr.toNat
     ∧ bitsOf (mirrorWord s (68 + 4 * portNat p)) 31 1 = 1
     ∧ bitsOf (mirrorWord s (69 + 4 * portNat p)) 0 1 = bitNat r.write
     ∧ bitsOf (mirrorWord s (69 + 4 * portNat p)) 1 3 = r.size.val
     ∧ bitsOf (mirrorWord s (69 + 4 * portNat p)) 4 4 = r.burst
     ∧ bitsOf (mirrorWord s (69 + 4 * portNat p)) 8 1 = bitNat r.locked
     ∧ bitsOf (mirrorWord s (69 + 4 * portNat p)) 16 4 = faultNat r.code
     ∧ mirrorWord s (70 + 4 * portNat p) = r.time
     ∧ bitsOf (mirrorWord s (71 + 4 * portNat p)) 0 8 = (s.port p).capture.overflow.toNat)
  ∧ (∀ s : State,
     (∀ k : Fin 4, s.memCapture.record = none → mirrorWord s (76 + k.val) = 0)
     ∧ (∀ r, s.memCapture.record = some r → r.addr < 2 ^ 24 →
       bitsOf (mirrorWord s 76) 0 24 = r.addr ∧ bitsOf (mirrorWord s 76) 31 1 = 1
       ∧ bitsOf (mirrorWord s 77) 0 2 = r.bank.val ∧ bitsOf (mirrorWord s 77) 4 3 = sourceNat r.source
       ∧ mirrorWord s 78 = r.time ∧ bitsOf (mirrorWord s 79) 0 8 = s.memCapture.overflow.toNat))
  ∧ (∀ (s : State) (b : BankId),
     bitsOf (mirrorWord s (80 + 2 * b.val)) 0 3 = serviceNat (s.bank b).service
     ∧ bitsOf (mirrorWord s (80 + 2 * b.val)) 4 4 = (s.bank b).retries.val
     ∧ bitsOf (mirrorWord s (80 + 2 * b.val)) 8 1 = bitNat (s.bank b).rfull
     ∧ bitsOf (mirrorWord s (80 + 2 * b.val)) 12 2 = causeNat (s.bank b).cause
     ∧ mirrorWord s (81 + 2 * b.val) =
         (match (s.bank b).cause, (s.bank b).faultTime with
          | .none, _ => 0
          | _, some t => t
          | _, none => 0))
  ∧ (∀ s : State,
     bitsOf (mirrorWord s 88) 0 1 = (match s.scrub.state with | .stopped => 0 | .running _ => 1)
     ∧ (∀ ph, s.scrub.state = .running ph → bitsOf (mirrorWord s 88) 4 2 = scrubPhaseNat ph)
     ∧ bitsOf (mirrorWord s 89) 31 1 = (if s.scrub.position = none then 1 else 0)
     ∧ (∀ a, s.scrub.position = some a → a < 2 ^ 24 → bitsOf (mirrorWord s 89) 0 24 = a)
     ∧ bitsOf (mirrorWord s 90) 0 16 = s.scrub.passes.toNat)
  ∧ (∀ s : State, s.copy.queue.length ≤ 16 →
     bitsOf (mirrorWord s 92) 0 2 = engineStateNat s.copy.state
     ∧ bitsOf (mirrorWord s 92) 16 5 = s.copy.queue.length
     ∧ (s.copy.state.job = none → bitsOf (mirrorWord s 92) 3 1 = 0 ∧ bitsOf (mirrorWord s 92) 4 12 = 0)
     ∧ (∀ j, s.copy.state.job = some j →
       bitsOf (mirrorWord s 92) 3 1 = 1 ∧ bitsOf (mirrorWord s 92) 4 4 = j.channel.val
       ∧ bitsOf (mirrorWord s 92) 8 4 = j.source.val ∧ bitsOf (mirrorWord s 92) 12 4 = j.target.val)
     ∧ (∀ i : Fin 8,
       bitsOf (mirrorWord s 93) (4 * i.val) 4 = (match s.copy.queue[i.val]? with | some c => c.val | none => 0)
       ∧ bitsOf (mirrorWord s 94) (4 * i.val) 4 =
           (match s.copy.queue[8 + i.val]? with | some c => c.val | none => 0)))
  ∧ (∀ (s : State) (c : ChanId),
     s.chan c = none →
       (∀ k : Fin 16, mirrorWord s (128 + 16 * c.val + k.val) = 0)
       ∧ (∀ k : Fin 8, mirrorWord s (384 + 8 * c.val + k.val) = 0))
  ∧ (∀ (s : State) (c : ChanId) (ch : Channel), s.chan c = some ch →
     (∀ k : Fin 16, mirrorWord s (128 + 16 * c.val + k.val) = channelStatusWord ch k.val)
     ∧ (∀ k : Fin 8, mirrorWord s (384 + 8 * c.val + k.val) =
         (match (ch.slot k).commitTime with
          | some t => if k.val < ch.config.depth then t else 0
          | none => 0)))
  ∧ (∀ ch : Channel, ch.config.depth < 16 → ch.committed.length < 16 →
     bitsOf (channelStatusWord ch 0) 0 1 = 1
     ∧ bitsOf (channelStatusWord ch 0) 1 1 = modeNat ch.config.mode
     ∧ bitsOf (channelStatusWord ch 0) 4 4 = ch.config.depth
     ∧ bitsOf (channelStatusWord ch 0) 8 2 = channelStateNat ch.state
     ∧ bitsOf (channelStatusWord ch 0) 12 4 = (match ch.newest with | some i => i.val | none => 15)
     ∧ bitsOf (channelStatusWord ch 0) 16 4 = (match ch.held with | .slot i => i.val | .substitute => 14 | .none => 15)
     ∧ bitsOf (channelStatusWord ch 0) 20 4 = (match ch.filling with | some i => i.val | none => 15)
     ∧ bitsOf (channelStatusWord ch 0) 24 2 = channelCopyNat ch.copy
     ∧ bitsOf (channelStatusWord ch 0) 28 4 = ch.committed.length)
  ∧ (∀ ch : Channel,
     channelStatusWord ch 1 = ch.frames
     ∧ (∀ i : Fin 8, bitsOf (channelStatusWord ch 2) (4 * i.val) 4 =
         (match ch.committed[i.val]? with | some x => x.val | none => 0))
     ∧ (∀ n, ch.copy = .copying n → n < 2 ^ 13 → bitsOf (channelStatusWord ch 3) 0 13 = n)
     ∧ ((∀ n, ch.copy ≠ .copying n) → bitsOf (channelStatusWord ch 3) 0 13 = 0)
     ∧ bitsOf (channelStatusWord ch 3) 16 1 = (if ch.lastCommit = none then 0 else 1)
     ∧ channelStatusWord ch 4 = (match ch.lastCommit with | some t => t | none => 0)
     ∧ bitsOf (channelStatusWord ch 5) 0 16 = ch.dropped.toNat ∧ bitsOf (channelStatusWord ch 5) 16 16 = ch.lost.toNat
     ∧ bitsOf (channelStatusWord ch 6) 0 16 = ch.blocked.toNat ∧ bitsOf (channelStatusWord ch 6) 16 16 = ch.empty.toNat
     ∧ (∀ i : Fin 8, i.val < ch.config.depth →
       bitsOf (channelStatusWord ch 7) (4 * i.val) 2 = slotStateNat (ch.slot i).state
       ∧ bitsOf (channelStatusWord ch 7) (4 * i.val + 2) 1 = bitNat (ch.slot i).retired
       ∧ bitsOf (channelStatusWord ch 7) (4 * i.val + 3) 1 = bitNat (ch.bankUp && !(ch.slot i).retired)
       ∧ channelStatusWord ch (8 + i.val) = (match (ch.slot i).frame with | some n => n | none => 0))
     ∧ (∀ i : Fin 8, ch.config.depth ≤ i.val →
       bitsOf (channelStatusWord ch 7) (4 * i.val) 4 = 0 ∧ channelStatusWord ch (8 + i.val) = 0))
  ∧ (∀ (s : State) (off : Nat),
     off = 2 ∨ off = 3 ∨ (10 ≤ off ∧ off ≤ 13) ∨ (32 ≤ off ∧ off ≤ 63) ∨ off = 91 ∨ (95 ≤ off ∧ off ≤ 127)
       ∨ 512 ≤ off →
     mirrorWord s off = 0)
  ∧ [LoadOutcome.ok, .signature, .format, .length, .crc, .badField, .bankLayout, .bcbPlacement, .regionRange,
      .channel].map loadOutcomeNat = [0, 1, 2, 3, 4, 5, 6, 7, 8, 9]
  ∧ [CommandOutcome.none, .pending, .done, .badArgument, .wrongState].map commandOutcomeNat = [0, 1, 2, 3, 4]
  ∧ [FaultCode.unmapped, .denied, .reserved, .channelOff, .form, .role, .blocked, .uncorrectable, .poisoned,
      .unavailable, .timeout, .abandoned, .holdExpired].map faultNat = [1, 2, 3, 5, 6, 7, 8, 9, 10, 11, 12, 13, 14]
  ∧ [Source.port0, .port1, .copy, .scrub, .probe].map sourceNat = [0, 1, 2, 3, 4]
  ∧ [Service.unused, .inService, .retryWait, .probing, .fenced].map serviceNat = [0, 1, 2, 3, 4]
  ∧ [FaultCause.none, .timeout, .storm, .command].map causeNat = [0, 1, 2, 3]
  ∧ [ScrubPhase.pacing, .requesting, .reading, .noBank].map scrubPhaseNat = [0, 1, 2, 3]
  ∧ [Mode.latest, .queue].map modeNat = [0, 1]
  ∧ [ChannelState.off, .live, .stale].map channelStateNat = [0, 1, 2]
  ∧ [SlotState.free, .filling, .committed].map slotStateNat = [0, 1, 2]
  ∧ (∀ n, [ChannelCopy.none, .queued, .copying n].map channelCopyNat = [0, 1, 2])
  ∧ (∀ j r, [EngineState.idle, .active j, .ending j r, .draining j].map engineStateNat = [0, 1, 2, 3])
  ∧ (∀ j r, EngineState.idle.job = none ∧ (EngineState.active j).job = some j ∧ (EngineState.ending j r).job = some j
      ∧ (EngineState.draining j).job = some j)
  ∧ [false, true].map bitNat = [0, 1] ∧ [Port.port0, .port1].map portNat = [0, 1]
  ∧ [GlobalFlag.cmdDone, .accessFault, .eccCorrected, .eccUncorrectable, .poisonRead, .bankRetry, .bankFenced,
      .scrubPass, .configFallback].map GlobalFlag.bit = [0, 1, 2, 3, 4, 5, 6, 7, 8]
  ∧ [ChannelFlag.commit, .stale, .lost, .consumed, .dropped, .blocked, .abandoned].map ChannelFlag.bit
      = [0, 1, 2, 3, 4, 5, 6]
  ∧ (∀ w : Word, commandCode w = bitsOf w 0 8 ∧ commandArgA w = bitsOf w 8 8 ∧ commandArgB w = bitsOf w 16 8)
  ∧ (∀ (w : Word) (lo n : Nat), bitsOf w lo n = w.toNat / 2 ^ lo % 2 ^ n)

/-! ## Time -/

/-- A tick takes one from every running microsecond timer, adds one to the ticks of the operation in progress, from
which its ready timers are told, and counts towards the millisecond outside LOADING. At every thousandth tick the
millisecond count advances by one and wraps, and every running millisecond timer loses one. The expiry of a LIVE
channel's freshness timer makes it STALE and raises STALE; a timer that is not due has no expiry (log 2). -/
def Obligations.TimersCountDownAndExpire : Prop :=
  (∀ s : State, s.pinAsserted = false →
    exec .microsecondTick s = .next (settle s
      { s with
        ports := ⟨{ s.ports.first with hold := tickTimer s.ports.first.hold },
          { s.ports.second with hold := tickTimer s.ports.second.hold }⟩
        arbiter := { s.arbiter with busy := s.arbiter.busy.map (fun b => { b with waited := b.waited + 1 }) }
        scrub := { s.scrub with timer := tickTimer s.scrub.timer }
        usInMs := if s.device = .loading then s.usInMs else s.usInMs + 1 }))
  ∧ (∀ n, tickTimer (.running (n + 2)) = .running (n + 1))
  ∧ tickTimer (.running 1) = .due ∧ tickTimer .due = .due ∧ tickTimer .stopped = .stopped
  ∧ (∀ s : State, s.operating → 1000 ≤ s.usInMs →
     exec .millisecondAdvance s = .next (settle s
       { s with
         channels := s.channels.map (fun e => e.map (fun ch => { ch with deadline := tickTimer ch.deadline }))
         banks := s.banks.map (fun x => { x with retryTimer := tickTimer x.retryTimer })
         usInMs := s.usInMs - 1000
         msCount := s.msCount + 1 }))
  ∧ (∀ (s : State) (c : ChanId) (ch : Channel), s.pinAsserted = false → s.chan c = some ch →
    ch.state = .live → ch.deadline = .due →
    exec (.freshnessExpiry c) s = .next (settle s
      (raiseChannel c .stale (s.setChan c (some { ch with state := .stale, deadline := .stopped })))))
  ∧ (∀ (s : State) (c : ChanId) (ch : Channel), s.chan c = some ch → ch.deadline ≠ .due →
    exec (.freshnessExpiry c) s = .next s)

/-! ## Ports and decoder -/

/-- A port record that has taken an access in RUN or FALLBACK and started its hold timer under its limit. -/
def taken (r : PortRecord) (ph : PortPhase) : PortRecord :=
  { r with phase := ph, hold := startUnlessZero r.holdLimit.toNat, answer := none }

/-- An answer ends the access: the port is IDLE and its timer stops; a FAULT in RUN or FALLBACK counts at the port,
raises ACCESS_FAULT on its line alone and is offered to its capture; during LOADING it does none of these. Putting an
operation: it waits at the arbiter when its bank is in service, and ends UNAVAILABLE without going to memory
otherwise; a BCB write is handed over all the same, and the end of a commit's write lets a kept-back read go. -/
def Obligations.AnswerEffects : Prop :=
  (∀ (s : State) (p : Port) (a : Access) (d : List Word) (addr : BitVec 24) (l : Bool),
    giveAnswer p a ⟨d, none⟩ addr l s
      = s.setPort p { s.port p with phase := .idle, hold := .stopped, answer := some ⟨d, none⟩ })
  ∧ (∀ (s : State) (p : Port) (a : Access) (d : List Word) (f : FaultCode) (addr : BitVec 24) (l : Bool),
    s.device = .loading →
    giveAnswer p a ⟨d, some f⟩ addr l s
      = s.setPort p { s.port p with phase := .idle, hold := .stopped, answer := some ⟨d, some f⟩ })
  ∧ (∀ (s : State) (p : Port) (a : Access) (d : List Word) (f : FaultCode) (addr : BitVec 24) (l : Bool),
    s.device ≠ .loading →
    giveAnswer p a ⟨d, some f⟩ addr l s
      = raiseGlobal p .accessFault (s.setPort p
          { s.port p with
            phase := .idle, hold := .stopped, answer := some ⟨d, some f⟩
            faultCount := satInc (s.port p).faultCount
            capture :=
              if (s.port p).capture.record.isNone then
                ⟨some ⟨addr, a.write, a.size, burstNat a, l, f, s.msCount⟩, (s.port p).capture.overflow⟩
              else ⟨(s.port p).capture.record, satInc (s.port p).capture.overflow⟩ }))
  ∧ (∀ (s : State) (p : Port) (a : Access) (addrs : List Nat) (data : List Word) (tag : OpTag) (b : BankId),
     s.bankOf (addrs.headD 0) = some b →
     (s.inService b = true →
       putWords p a addrs data tag s
         = s.setPort p { s.port p with
             phase := .atArbiter a ⟨b, addrs, a.write, a.size.val, byteLane a, data, tag⟩ })
     ∧ (s.inService b = false → tag = .plain →
       putWords p a addrs data tag s = giveAnswer p a ⟨[], some .unavailable⟩
         (if a.burst.isSome = true then a.addr + BitVec.ofNat 24 0 else a.addr) a.locked s)
     ∧ (∀ x, s.inService b = false → tag = .lockedRead x →
       putWords p a addrs data tag s = giveAnswer p a ⟨[], some .unavailable⟩
         (if a.burst.isSome = true then a.addr + BitVec.ofNat 24 0 else a.addr) a.locked s)
     ∧ (∀ c i, s.inService b = false → tag = .commitWord c i →
       putWords p a addrs data tag s = releaseKeptBack p (.commitWord c i) (giveAnswer p a ⟨[], some .unavailable⟩
         (if a.burst.isSome = true then a.addr + BitVec.ofNat 24 0 else a.addr) a.locked s))
     ∧ (s.inService b = false → tag = .bcb (2 + portNat p) →
       putWords p a addrs data tag s
         = giveAnswer p a ⟨[], some .unavailable⟩ a.addr a.locked (acceptCommand p (beatData a 0) s))
     ∧ (∀ off, s.inService b = false → tag = .bcb off → off ≠ 2 + portNat p →
       putWords p a addrs data tag s = s.setPort p
         { s.port p with phase := .handover a off (beatData a 0) (some .unavailable), hold := .stopped }))

/-- The accepted forms: a single of 1, 2 or 4 bytes at its alignment, a burst of 2 to 8 aligned words in one 32-byte
block, a locked 4-byte single read. During LOADING a port takes an access and holds it, undecoded, with its hold timer
started under 10,000 µs, whatever the limit in force by then (log 14). A malformed access in RUN or FALLBACK is
answered FORM and reaches nothing. An access refused at decode is answered with its fault at once. A window access to
a LIVE or STALE channel is handed to the exchange engine with its word offset. -/
def Obligations.AccessTakenOrHeld : Prop :=
  (∀ a : Access, formOk a = true ↔
    (a.burst = none ∧ (a.size.val = 1 ∨ a.size.val = 2 ∨ a.size.val = 4) ∧ a.addr.toNat % a.size.val = 0
        ∧ (a.locked = true → a.write = false ∧ a.size.val = 4))
    ∨ (∃ n, a.burst = some n ∧ a.size.val = 4 ∧ 2 ≤ n.val ∧ n.val ≤ 8 ∧ a.addr.toNat % 4 = 0
        ∧ a.addr.toNat / 32 = (a.addr.toNat + 4 * n.val - 1) / 32 ∧ a.locked = false))
  ∧ (∀ (s : State) (p : Port) (a : Access), s.pinAsserted = false → s.device = .loading → (s.port p).phase = .idle →
     exec (.portAccess p a) s = .next (settle s
       (s.setPort p { s.port p with phase := .held a, hold := .running 10000, answer := none })))
  ∧ (∀ (s : State) (p : Port) (a : Access), s.free p → formOk a = false →
     exec (.portAccess p a) s = .next (settle s
       (answerFault p a .form (s.setPort p (taken (s.port p) (.held a))))))
  ∧ (∀ (s : State) (p : Port) (a : Access) (f : FaultCode), s.free p → formOk a = true →
     decode p a (s.setPort p (taken (s.port p) (.held a))) = .refused f →
     exec (.portAccess p a) s = .next (settle s
       (answerFault p a f (s.setPort p (taken (s.port p) (.held a))))))
  ∧ (∀ (s : State) (p : Port) (a : Access) (c : ChanId) (off : Nat), s.free p → formOk a = true →
     decode p a (s.setPort p (taken (s.port p) (.held a))) = .window c off →
     exec (.portAccess p a) s = .next (settle s (s.setPort p (taken (s.port p) (.atChannel a c off)))))

/-- The classes of the decoder in their order, each with its outcome: the BCB, where a read is handed to memory
without a region check and a locked one is FORM; a channel's window; a slot area; an address in no bank; memory under
its permission. The permission that governs a port at an address: the highest-numbered enabled region that covers it,
or the default access; a write or a locked read needs READWRITE, another read READ or READWRITE. The BCB is the 4 KiB
from its base; a window is the 4L bytes from its base, a slot area the 4DL bytes from its; a bank covers its size from
its base, an enabled region what lies from its base to its limit, in units of 256 bytes. -/
def Obligations.ClassificationOrder : Prop :=
  (∀ (s : State) (p : Port) (a : Access),
     (s.inBcb a.addr.toNat = true →
       (a.write = false → decode p a s = if a.locked = true then .refused .form else .bcbRead)
       ∧ (a.write = true → decode p a s = decodeBcb p a ((a.addr.toNat - s.bcbBase) / 4)))
     ∧ (∀ c ch, s.inBcb a.addr.toNat = false → s.windowOf a.addr.toNat = some c → s.chan c = some ch →
         decode p a s =
           if ch.state = .off then .refused .channelOff
           else if a.locked = true then .refused .form
           else .window c ((a.addr.toNat - ch.config.windowBase) / 4))
     ∧ (s.inBcb a.addr.toNat = false → s.windowOf a.addr.toNat = none →
         decode p a s =
           if s.inSlotArea a.addr.toNat = true then .refused .reserved
           else if s.bankOf a.addr.toNat = none then .refused .unmapped
           else if permits (s.permission p a.addr.toNat) a = true then .memory
           else .refused .denied))
  ∧ (∀ (s : State) (p : Port) (addr : Nat) (r : Fin 8),
    (s.regions.get r).covers addr = true → (∀ q : Fin 8, r < q → (s.regions.get q).covers addr = false) →
    s.permission p addr = (s.regions.get r).perms.get p)
  ∧ (∀ (s : State) (p : Port) (addr : Nat),
    (∀ q : Fin 8, (s.regions.get q).covers addr = false) → s.permission p addr = s.defaultAccess.get p)
  ∧ (∀ (perm : Permission) (a : Access),
    permits perm a = true ↔
      perm = .readWrite ∨ (perm = .read ∧ a.write = false ∧ a.locked = false))
  ∧ (∀ (s : State) (x : Nat),
    (s.inBcb x = true ↔ s.bcbBase ≤ x ∧ x < s.bcbBase + 4096)
    ∧ (s.windowOf x = none ↔
      ∀ c ch, s.chan c = some ch → ¬ (ch.config.windowBase ≤ x ∧ x < ch.config.windowBase + 4 * ch.config.len))
    ∧ (∀ c, s.windowOf x = some c →
      ∃ ch, s.chan c = some ch ∧ ch.config.windowBase ≤ x ∧ x < ch.config.windowBase + 4 * ch.config.len)
    ∧ (s.inSlotArea x = true ↔
      ∃ c ch, s.chan c = some ch ∧ ch.config.slotBase ≤ x
        ∧ x < ch.config.slotBase + 4 * ch.config.depth * ch.config.len)
    ∧ (s.bankOf x = none ↔
      ∀ b cfg, (s.bank b).config = some cfg → ¬ (cfg.base ≤ x ∧ x < cfg.base + cfg.size))
    ∧ (∀ b, s.bankOf x = some b → ∃ cfg, (s.bank b).config = some cfg ∧ cfg.base ≤ x ∧ x < cfg.base + cfg.size))
  ∧ (∀ (r : Region) (x : Nat), r.covers x = true ↔
    r.enabled = true ∧ 256 * r.base.toNat ≤ x ∧ x ≤ 256 * r.limit.toNat + 255)

/-- A BCB read is put to memory whatever the regions permit: it waits at the arbiter with its words, or is answered
UNAVAILABLE in a bank out of service; a locked one is answered FORM. A BCB write is checked word by word: FORM,
RESERVED, or a single word handed on; in a bank out of service the handover is made all the same: a command word is
accepted or refused and the port answered UNAVAILABLE in that step, another word waits for its own step with that
outcome (log 21). The writable words of the BCB: the port's own command word and staging entry, the masks and the ack
words. -/
def Obligations.BcbAccessChecked : Prop :=
  (∀ (s : State) (p : Port) (a : Access), s.free p → formOk a = true → s.inBcb a.addr.toNat = true →
     a.write = false →
     (a.locked = true →
       exec (.portAccess p a) s = .next (settle s
         (answerFault p a .form (s.setPort p (taken (s.port p) (.held a))))))
     ∧ (∀ b, a.locked = false → s.bankOf (firstWord a) = some b →
       (s.inService b = true →
         exec (.portAccess p a) s = .next (settle s
           (s.setPort p (taken (s.port p) (.atArbiter a
             ⟨b, (List.range (wordCount a)).map (fun i => firstWord a + 4 * i), false, a.size.val, byteLane a, [],
               .plain⟩)))))
       ∧ (s.inService b = false →
         exec (.portAccess p a) s = .next (settle s
           (answerFault p a .unavailable (s.setPort p (taken (s.port p) (.held a))))))))
  ∧ (∀ (s : State) (p : Port) (a : Access), s.free p → formOk a = true → s.inBcb a.addr.toNat = true →
     a.write = true →
     ((∃ k < wordCount a, bcbWritable p ((a.addr.toNat - s.bcbBase) / 4 + k) = true) → isSingleWord a = false →
       exec (.portAccess p a) s = .next (settle s
         (answerFault p a .form (s.setPort p (taken (s.port p) (.held a))))))
     ∧ ((¬ ((∃ k < wordCount a, bcbWritable p ((a.addr.toNat - s.bcbBase) / 4 + k) = true)
           ∧ isSingleWord a = false)) →
         (∃ k < wordCount a, bcbWritable p ((a.addr.toNat - s.bcbBase) / 4 + k) = false) →
       exec (.portAccess p a) s = .next (settle s
         (answerFault p a .reserved (s.setPort p (taken (s.port p) (.held a))))))
     ∧ (∀ b, isSingleWord a = true → bcbWritable p ((a.addr.toNat - s.bcbBase) / 4) = true →
         s.bankOf (firstWord a) = some b → s.inService b = true →
       exec (.portAccess p a) s = .next (settle s
         (s.setPort p (taken (s.port p) (.atArbiter a
           ⟨b, [firstWord a], true, 4, 0, [beatData a 0], .bcb ((a.addr.toNat - s.bcbBase) / 4)⟩)))))
     ∧ (∀ b, isSingleWord a = true → bcbWritable p ((a.addr.toNat - s.bcbBase) / 4) = true →
         s.bankOf (firstWord a) = some b → s.inService b = false →
       ((a.addr.toNat - s.bcbBase) / 4 = 2 + portNat p →
         exec (.portAccess p a) s = .next (settle s
           (giveAnswer p a ⟨[], some .unavailable⟩ a.addr a.locked
             (acceptCommand p (beatData a 0) (s.setPort p (taken (s.port p) (.held a)))))))
       ∧ ((a.addr.toNat - s.bcbBase) / 4 ≠ 2 + portNat p →
         exec (.portAccess p a) s = .next (settle s
           (s.setPort p
             { s.port p with
               phase := .handover a ((a.addr.toNat - s.bcbBase) / 4) (beatData a 0) (some .unavailable)
               hold := .stopped, answer := none })))))
  ∧ (∀ off, (bcbWritable .port0 off = true ↔ off = 2 ∨ (6 ≤ off ∧ off ≤ 13) ∨ (32 ≤ off ∧ off ≤ 47))
     ∧ (bcbWritable .port1 off = true ↔ off = 3 ∨ (6 ≤ off ∧ off ≤ 13) ∨ (48 ≤ off ∧ off ≤ 63)))

/-- A plain memory access in a bank in service waits at the arbiter with its own words; in a bank out of service it is
answered UNAVAILABLE. -/
def Obligations.PlainAccessPut : Prop :=
  ∀ (s : State) (p : Port) (a : Access) (b : BankId), s.free p → formOk a = true →
    decode p a (s.setPort p (taken (s.port p) (.held a))) = .memory → s.bankOf (firstWord a) = some b →
    (s.inService b = true →
      exec (.portAccess p a) s = .next (settle s
        (s.setPort p (taken (s.port p) (.atArbiter a
          ⟨b, (List.range (wordCount a)).map (fun i => firstWord a + 4 * i), a.write, a.size.val, byteLane a,
            if a.write = true then (List.range (wordCount a)).map (beatData a) else [],
            if a.locked = true then .lockedRead (firstWord a) else .plain⟩)))))
    ∧ (s.inService b = false →
      exec (.portAccess p a) s = .next (settle s
        (answerFault p a .unavailable (s.setPort p (taken (s.port p) (.held a))))))

/-- A write half answered with a fault at the port, by which the lock closes; the fault is marked locked. -/
def halfRefused (p : Port) (a : Access) (f : FaultCode) (s : State) : State :=
  giveAnswer p a ⟨[], some f⟩ a.addr true ((s.setPort p (taken (s.port p) (.held a))).setLock none)

/-- The access after a locked read that was answered OKAY closes the lock: anything but the write half is answered
FORM; the write half to memory in service is performed at once, without arbitration, and closes the lock at its end;
in a bank out of service it is answered UNAVAILABLE, in a window (of a channel that is OFF too, log 13) FORM, and
where decode refuses it with that fault, each closing the lock. That it is answered FORM at a writable BCB word, in a
state no run reaches, is the model's choice (log 33). A locked read that ends with data, clean or corrected, opens the
lock; one refused by a poisoned or an uncorrectable word opens none. -/
def Obligations.LockedPair : Prop :=
  (∀ (s : State) (p : Port) (a : Access) (addr : Nat), s.operating → (s.port p).phase = .idle →
     s.arbiter.lock = some ⟨p, addr⟩ →
     (isWriteHalf a addr = false →
       exec (.portAccess p a) s = .next (settle s
         (answerFault p a .form ((s.setPort p (taken (s.port p) (.held a))).setLock none))))
     ∧ (∀ b, isWriteHalf a addr = true → s.windowOf a.addr.toNat = none →
         decode p a (s.setPort p (taken (s.port p) (.held a))) = .memory → s.bankOf a.addr.toNat = some b →
         s.inService b = true →
       exec (.portAccess p a) s = .next (settle s
         ((s.setPort p
             { s.port p with
               phase := .granted a ⟨b, [firstWord a], true, 4, byteLane a, [beatData a 0], .writeHalf⟩
               hold := .stopped, answer := none }).setBusy (some ⟨.port p, 0⟩))))
     ∧ (∀ b, isWriteHalf a addr = true → s.windowOf a.addr.toNat = none →
         decode p a (s.setPort p (taken (s.port p) (.held a))) = .memory → s.bankOf a.addr.toNat = some b →
         s.inService b = false →
       exec (.portAccess p a) s = .next (settle s (halfRefused p a .unavailable s)))
     ∧ (isWriteHalf a addr = true → s.inBcb a.addr.toNat = false → s.windowOf a.addr.toNat ≠ none →
       exec (.portAccess p a) s = .next (settle s (halfRefused p a .form s)))
     ∧ (∀ f, isWriteHalf a addr = true → s.inBcb a.addr.toNat = true ∨ s.windowOf a.addr.toNat = none →
         decode p a (s.setPort p (taken (s.port p) (.held a))) = .refused f →
       exec (.portAccess p a) s = .next (settle s (halfRefused p a f s)))
     ∧ (∀ off, isWriteHalf a addr = true → s.inBcb a.addr.toNat = true →
         decode p a (s.setPort p (taken (s.port p) (.held a))) = .bcbWrite off →
       exec (.portAccess p a) s = .next (settle s (halfRefused p a .form s))))
  ∧ (∀ (s : State) (p : Port) (a : Access) (op : PortOp) (addr : Nat), s.running p a op → s.device ≠ .loading →
    op.write = false → op.size = 4 → op.tag = .lockedRead addr → op.addrs = [addr] →
    ((s.isProtected op.bank = true → s.classAt addr = .clean) →
      exec (.portOperationEnd p) s = .next (settle s
        (((s.setBusy none).setLock (some ⟨p, addr⟩)).setPort p
          { s.port p with phase := .idle, hold := .stopped, answer := some ⟨[wordRead s.ram addr], none⟩ })))
    ∧ (∀ v, s.isProtected op.bank = true → s.classAt addr = .corrected v →
      exec (.portOperationEnd p) s = .next (settle s
        (((countCorrected (storeWord op.bank addr v (s.setBusy none))).setLock (some ⟨p, addr⟩)).setPort p
          { s.port p with phase := .idle, hold := .stopped, answer := some ⟨[v], none⟩ })))
    ∧ (s.isProtected op.bank = true → s.classAt addr = .poisoned →
      ∃ t, exec (.portOperationEnd p) s = .next t ∧ t.arbiter.lock = s.arbiter.lock
        ∧ (t.port p).phase = .idle ∧ (t.port p).answer = some ⟨[], some .poisoned⟩)
    ∧ (s.isProtected op.bank = true → s.classAt addr = .uncorrectable →
      ∃ t, exec (.portOperationEnd p) s = .next t ∧ t.arbiter.lock = s.arbiter.lock
        ∧ (t.port p).phase = .idle ∧ (t.port p).answer = some ⟨[], some .uncorrectable⟩))
  ∧ (∀ (s : State) (p : Port) (a : Access) (op : PortOp) (addr : Nat) (v : Word), s.running p a op →
    op.write = true → op.size = 4 → op.tag = .writeHalf → op.addrs = [addr] → op.data = [v] →
    exec (.portOperationEnd p) s = .next (settle s
      (((storeWord op.bank addr v (s.setBusy none)).setLock none).setPort p
        { s.port p with phase := .idle, hold := .stopped, answer := some ⟨[], none⟩ })))

/-- The hold timer's expiry while an access is held or waits: HOLD_EXPIRED, and no further step for it; an access
handed to the exchange engine and not yet taken counts as waiting (log 20). A waiting commit's tag goes, its slot and
copy stay; an expired word 0 write lets a tag read kept back on it go to the memory controller. An access that holds
the memory port is not cut short. -/
def Obligations.HoldExpiryAnswered : Prop :=
  (∀ (s : State) (p : Port) (a : Access), s.pinAsserted = false → (s.port p).hold = .due →
    ((s.port p).phase = .held a ∨ (∃ c off, (s.port p).phase = .atChannel a c off)
      ∨ (∃ op c i, (s.port p).phase = .keptBack a op c i)) →
    exec (.holdExpired p) s = .next (settle s (answerFault p a .holdExpired s)))
  ∧ (∀ (s : State) (p : Port) (a : Access) (c : ChanId) (ch : Channel), s.pinAsserted = false →
    (s.port p).hold = .due → (s.port p).phase = .waitingCommit a c → s.chan c = some ch →
    exec (.holdExpired p) s = .next (settle s
      (answerFault p a .holdExpired (s.setChan c (some { ch with waiting := none })))))
  ∧ (∀ (s : State) (p : Port) (a : Access) (op : PortOp), s.pinAsserted = false →
    (s.port p).hold = .due → (s.port p).phase = .atArbiter a op →
    exec (.holdExpired p) s = .next (settle s (releaseKeptBack p op.tag (answerFault p a .holdExpired s))))
  ∧ (∀ (s : State) (p : Port) (tag : OpTag), (∀ c i, tag ≠ .commitWord c i) → releaseKeptBack p tag s = s)
  ∧ (∀ (s : State) (p : Port) (a : Access) (op : PortOp) (c : ChanId) (i : Fin 8),
    (s.port (otherPort p)).phase = .keptBack a op c i → s.inService op.bank = true →
    releaseKeptBack p (.commitWord c i) s
      = s.setPort (otherPort p) { s.port (otherPort p) with phase := .atArbiter a op })
  ∧ (∀ (s : State) (p : Port) (a : Access) (op : PortOp), (s.port p).phase = .granted a op →
    exec (.holdExpired p) s = .next s)

/-! ## Memory operations -/

/-- The word is clean or corrected. -/
def readsWell (s : State) (addr : Nat) : Prop :=
  s.classAt addr = .clean ∨ ∃ v, s.classAt addr = .corrected v

/-- What a clean or corrected word delivers. -/
def wellValue (s : State) (addr : Nat) : Word :=
  match s.classAt addr with
  | .corrected v => v
  | _ => wordRead s.ram addr

/-- The data a read delivers from clean and corrected words: whole words, or the addressed bytes. -/
def wellData (s : State) (op : PortOp) (addrs : List Nat) : List Word :=
  addrs.map (fun x => if op.size = 4 then wellValue s x else laneRead (wellValue s x) op.lane op.size)

/-- Each corrected word among some written back and counted, in their order. -/
def writtenBack (b : BankId) (s : State) (addrs : List Nat) (t : State) : State :=
  addrs.foldl (fun u x =>
    match s.classAt x with
    | .corrected v => countCorrected (storeWord b x v u)
    | _ => u) t

/-- Words that share no byte, as those of one burst do not. -/
def wordsApart (addrs : List Nat) : Prop :=
  addrs.Pairwise (fun x y => x + 4 ≤ y ∨ y + 4 ≤ x)

/-- A port's read whose words are clean is answered OKAY with them in ascending order (the addressed bytes of a
smaller read, right-justified with zeros above, log 15), and changes no memory. A port's full-word write is answered
OKAY with its words stored in ascending order and good check code; every byte outside them reads as before; a single
word reads as written. A read that meets a bad word: the words before it are delivered, the beat of that word carries
POISONED or UNCORRECTABLE, no later word is read, and the fault address is that word's in a burst; the poison stays,
an uncorrectable word is counted and rewritten as poison. A read of a corrected word delivers the corrected value; in
a burst each corrected word is written back and counted, and truncates nothing, before a bad word too. A commit's word
0 write is stored and answered OKAY, and its end lets a tag read kept back on that slot go: to the arbiter, or, its
bank out of service, answered UNAVAILABLE. -/
def Obligations.PortOperationEnds : Prop :=
  (∀ (s : State) (p : Port) (a : Access) (op : PortOp), s.running p a op → op.write = false → op.tag = .plain →
     (∀ addr ∈ op.addrs, s.isProtected op.bank = true → s.classAt addr = .clean) →
     exec (.portOperationEnd p) s = .next (settle s
       ((s.setBusy none).setPort p
         { s.port p with
           phase := .idle, hold := .stopped
           answer := some
             ⟨op.addrs.map (fun addr =>
               if op.size = 4 then wordRead s.ram addr else laneRead (wordRead s.ram addr) op.lane op.size), none⟩ })))
  ∧ (∀ (s : State) (p : Port) (a : Access) (op : PortOp), s.running p a op → op.write = true → op.size = 4 →
     op.tag = .plain → op.data.length = op.addrs.length →
     ∃ u : State,
       exec (.portOperationEnd p) s = .next (settle s
         ((({ s with ram := u.ram, lanes := u.lanes } : State).setBusy none).setPort p
           { s.port p with phase := .idle, hold := .stopped, answer := some ⟨[], none⟩ }))
       ∧ u = (op.addrs.zip op.data).foldl (fun v e => storeWord op.bank e.1 e.2 v) s
       ∧ (∀ x, (∀ addr ∈ op.addrs, x < addr ∨ addr + 4 ≤ x) → cellRead u.ram x = cellRead s.ram x)
       ∧ (∀ addr v, op.addrs = [addr] → op.data = [v] → Memory.wf s.ram = true → wordRead u.ram addr = v))
  ∧ (∀ (s : State) (p : Port) (a : Access) (op : PortOp) (pre post : List Nat) (addr : Nat), s.running p a op →
     op.write = false → op.tag = .plain → op.addrs = pre ++ addr :: post → s.isProtected op.bank = true →
     (∀ x ∈ pre, s.classAt x = .clean) →
     (s.classAt addr = .poisoned →
       exec (.portOperationEnd p) s = .next (settle s
         (giveAnswer p a
           ⟨pre.map (fun x =>
             if op.size = 4 then wordRead s.ram x else laneRead (wordRead s.ram x) op.lane op.size), some .poisoned⟩
           (if a.burst.isSome = true then a.addr + BitVec.ofNat 24 (4 * pre.length) else a.addr) a.locked
           (raiseBoth .poisonRead
             { s.setBusy none with ecc := { s.ecc with poisonReads := satInc s.ecc.poisonReads } }))))
     ∧ (s.classAt addr = .uncorrectable →
       exec (.portOperationEnd p) s = .next (settle s
         (giveAnswer p a
           ⟨pre.map (fun x =>
             if op.size = 4 then wordRead s.ram x else laneRead (wordRead s.ram x) op.lane op.size),
             some .uncorrectable⟩
           (if a.burst.isSome = true then a.addr + BitVec.ofNat 24 (4 * pre.length) else a.addr) a.locked
           (countUncorrectable (portSource p) op.bank addr
             (storePoison addr (wordRead s.ram addr) (s.setBusy none)))))))
  ∧ (∀ (s : State) (p : Port) (a : Access) (op : PortOp) (addr : Nat) (v : Word), s.running p a op →
     op.write = false → op.tag = .plain → op.addrs = [addr] → s.isProtected op.bank = true →
     s.classAt addr = .corrected v →
     exec (.portOperationEnd p) s = .next (settle s
       (giveAnswer p a ⟨[if op.size = 4 then v else laneRead v op.lane op.size], none⟩
         (if a.burst.isSome = true then a.addr + BitVec.ofNat 24 4 else a.addr) a.locked
         (countCorrected (storeWord op.bank addr v (s.setBusy none))))))
  ∧ (∀ (s : State) (p : Port) (a : Access) (op : PortOp), s.running p a op → op.write = false → op.tag = .plain →
     s.isProtected op.bank = true → wordsApart op.addrs → (∀ x ∈ op.addrs, readsWell s x) →
     exec (.portOperationEnd p) s = .next (settle s
       (giveAnswer p a ⟨wellData s op op.addrs, none⟩ a.addr a.locked
         (writtenBack op.bank s op.addrs (s.setBusy none)))))
  ∧ (∀ (s t : State) (p : Port) (a : Access) (op : PortOp) (pre post : List Nat) (addr : Nat), s.running p a op →
     op.write = false → op.tag = .plain → op.addrs = pre ++ addr :: post → s.isProtected op.bank = true →
     wordsApart (pre ++ [addr]) → (∀ x ∈ pre, readsWell s x) → t = writtenBack op.bank s pre (s.setBusy none) →
     (s.classAt addr = .poisoned →
       exec (.portOperationEnd p) s = .next (settle s
         (giveAnswer p a ⟨wellData s op pre, some .poisoned⟩
           (if a.burst.isSome = true then a.addr + BitVec.ofNat 24 (4 * pre.length) else a.addr) a.locked
           (countPoisoned (portSource p) t))))
     ∧ (s.classAt addr = .uncorrectable →
       exec (.portOperationEnd p) s = .next (settle s
         (giveAnswer p a ⟨wellData s op pre, some .uncorrectable⟩
           (if a.burst.isSome = true then a.addr + BitVec.ofNat 24 (4 * pre.length) else a.addr) a.locked
           (countUncorrectable (portSource p) op.bank addr (storePoison addr (wordRead s.ram addr) t))))))
  ∧ (∀ (s u : State) (p : Port) (a : Access) (op : PortOp) (c : ChanId) (i : Fin 8) (addr : Nat) (v : Word),
     s.running p a op → op.write = true → op.size = 4 → op.tag = .commitWord c i → op.addrs = [addr] →
     op.data = [v] →
     u = (storeWord op.bank addr v (s.setBusy none)).setPort p
       { s.port p with phase := .idle, hold := .stopped, answer := some ⟨[], none⟩ } →
     (∀ a' o', (s.port (otherPort p)).phase = .keptBack a' o' c i →
       (s.inService o'.bank = true →
         exec (.portOperationEnd p) s = .next (settle s
           (u.setPort (otherPort p) { s.port (otherPort p) with phase := .atArbiter a' o' })))
       ∧ (s.inService o'.bank = false → o'.tag = .plain →
         exec (.portOperationEnd p) s = .next (settle s
           (giveAnswer (otherPort p) a' ⟨[], some .unavailable⟩
             (if a'.burst.isSome = true then a'.addr + BitVec.ofNat 24 0 else a'.addr) a'.locked u))))
     ∧ ((∀ a' o', (s.port (otherPort p)).phase ≠ .keptBack a' o' c i) →
       exec (.portOperationEnd p) s = .next (settle s u)))

/-- The four outcomes of a read access of a protected word, with the rewrite, the counts, the flags and the capture
offer of each. A STORM is reported exactly when an increase makes the UE count equal to the nonzero threshold of a
bank in service, outside LOADING (log 18). -/
def Obligations.ReadAccessByClass : Prop :=
  (∀ (s : State) (src : Source) (b : BankId) (addr : Nat), s.isProtected b = true →
     (s.classAt addr = .clean →
       readAccess src b addr none s = (.data (wordRead s.ram addr), none, s))
     ∧ (∀ v, s.classAt addr = .corrected v →
       readAccess src b addr none s
         = (.data v, none,
             raiseBoth .eccCorrected
               { storeWord b addr v s with ecc := { s.ecc with corrected := satInc s.ecc.corrected } }))
     ∧ (s.classAt addr = .uncorrectable →
       ∃ t, readAccess src b addr none s = (.uncorrectable (wordRead s.ram addr), none, t)
         ∧ t.ram = wordWrite s.ram addr (wordRead s.ram addr)
         ∧ t.lanes = cellWrite s.lanes addr (poisonMarker (wordRead s.ram addr))
         ∧ t.ecc = { s.ecc with uncorrectable := satInc s.ecc.uncorrectable }
         ∧ (t.bank b).ueCount = satInc (s.bank b).ueCount
         ∧ (s.memCapture.record = none →
             t.memCapture = ⟨some ⟨addr, b, src, s.msCount⟩, s.memCapture.overflow⟩)
         ∧ (s.memCapture.record ≠ none →
             t.memCapture = ⟨s.memCapture.record, satInc s.memCapture.overflow⟩)
         ∧ t.stormReports = (if stormReached s b = true then s.stormReports ++ [b] else s.stormReports)
         ∧ (∀ l, t.globalStage l GlobalFlag.eccUncorrectable.bit ≠ .clear))
     ∧ (s.classAt addr = .poisoned →
       (src = .port0 ∨ src = .port1 →
         readAccess src b addr none s
           = (.poisoned (wordRead s.ram addr), none,
               raiseBoth .poisonRead { s with ecc := { s.ecc with poisonReads := satInc s.ecc.poisonReads } }))
       ∧ (src ≠ .port0 → src ≠ .port1 →
         readAccess src b addr none s = (.poisoned (wordRead s.ram addr), none, s))))
  ∧ (∀ (s : State) (b : BankId) (cfg : BankConfig), (s.bank b).config = some cfg →
     (stormReached s b = true ↔
       s.device ≠ .loading ∧ (s.bank b).service = .inService ∧ cfg.stormThreshold ≠ 0
         ∧ (s.bank b).ueCount ≠ 255 ∧ (s.bank b).ueCount + 1 = cfg.stormThreshold))

/-- The word, and the check value, with bit `i` alone set. -/
def dataBit (i : Nat) : Word := BitVec.ofNat 32 (2 ^ i)

def checkBit (i : Nat) : BitVec 7 := BitVec.ofNat 7 (2 ^ i)

/-- The check code: a good word is clean, any one flipped bit is corrected, the marker reads poisoned. Any two flipped
bits are refused: uncorrectable, or poisoned when their syndrome is the poison syndrome. -/
def Obligations.CheckCode : Prop :=
  (∀ d : Word,
     checkClass d (goodCode d) = .clean
     ∧ (∀ j : Fin 32, checkClass (d ^^^ dataBit j.val) (goodCode d) = .corrected d)
     ∧ (∀ i : Fin 7, checkClass d (goodCode d ^^^ checkBit i.val) = .corrected d)
     ∧ checkClass d (poisonMarker d) = .poisoned
     ∧ poisonMarker d = goodCode d ^^^ 0x3F)
  ∧ (∀ d : Word,
     (∀ i j : Fin 32, i ≠ j →
       checkClass (d ^^^ dataBit i.val ^^^ dataBit j.val) (goodCode d)
         = if goodCode (dataBit i.val) ^^^ goodCode (dataBit j.val) = 0x3F then .poisoned else .uncorrectable)
     ∧ (∀ (i : Fin 32) (j : Fin 7),
       checkClass (d ^^^ dataBit i.val) (goodCode d ^^^ checkBit j.val)
         = if goodCode (dataBit i.val) ^^^ checkBit j.val = 0x3F then .poisoned else .uncorrectable)
     ∧ (∀ i j : Fin 7, i ≠ j →
       checkClass d (goodCode d ^^^ checkBit i.val ^^^ checkBit j.val) = .uncorrectable))

/-- A sub-word write ends as what follows gives it, at the port's operation end: direct with the check code off; with
it on the merge of a clean or corrected word is stored with good code, an uncorrectable word is counted and poisoned,
and a poisoned word is refused and left. A full-word write to a protected bank leaves a clean word, whatever stood
there: it heals a poisoned word. -/
def Obligations.WritesToProtectedBanks : Prop :=
  (∀ (s : State) (p : Port) (a : Access) (op : PortOp) (addr : Nat) (v : Word) (r : OpResult) (t : State),
     s.running p a op → op.write = true → op.size ≠ 4 → op.tag = .plain → op.addrs = [addr] → op.data = [v] →
     a.burst = none →
     subWordWrite (portSource p) op.bank addr op.lane op.size v none (s.setBusy none) = (r, t) →
     exec (.portOperationEnd p) s = .next (settle s (giveAnswer p a ⟨[], r.fault⟩ a.addr a.locked t)))
  ∧ (∀ (s : State) (src : Source) (b : BankId) (addr lane size : Nat) (v : Word),
     (s.isProtected b = false →
       subWordWrite src b addr lane size v none s
         = (⟨[], 1, none⟩, { s with ram := wordWrite s.ram addr (laneMerge (wordRead s.ram addr) v lane size) }))
     ∧ (s.isProtected b = true → s.classAt addr = .clean →
       subWordWrite src b addr lane size v none s
         = (⟨[], 1, none⟩, storeWord b addr (laneMerge (wordRead s.ram addr) v lane size) s))
     ∧ (∀ d, s.isProtected b = true → s.classAt addr = .corrected d →
       subWordWrite src b addr lane size v none s
         = (⟨[], 1, none⟩, countCorrected (storeWord b addr (laneMerge d v lane size) s)))
     ∧ (s.isProtected b = true → s.classAt addr = .uncorrectable →
       subWordWrite src b addr lane size v none s
         = (⟨[], 0, some .uncorrectable⟩,
             countUncorrectable src b addr (storePoison addr (wordRead s.ram addr) s)))
     ∧ (s.isProtected b = true → s.classAt addr = .poisoned →
       subWordWrite src b addr lane size v none s = (⟨[], 0, some .poisoned⟩, countPoisoned src s)))
  ∧ (∀ (s : State) (b : BankId) (addr : Nat) (v : Word), memoryCanonical s → s.isProtected b = true →
     (storeWord b addr v s).classAt addr = .clean ∧ wordRead (storeWord b addr v s).ram addr = v)

/-! ## The arbiter and ready control -/

/-- Whom the arbiter grants, in its order. -/
def Obligations.GrantOrder : Prop :=
  ∀ s : State,
    (∀ b, s.probeWaits b = true → (∀ d, d < b → s.probeWaits d = false) → pick s = some (.probe b))
    ∧ ((∀ b, s.probeWaits b = false) →
      (s.copyWaits = true → s.arbiter.copyPass = 8 → pick s = some .copy)
      ∧ (¬ (s.copyWaits = true ∧ s.arbiter.copyPass = 8) →
        (s.mirrorWaits = true → s.arbiter.mirrorPass = 8 → pick s = some .mirror)
        ∧ (¬ (s.mirrorWaits = true ∧ s.arbiter.mirrorPass = 8) →
          (s.portWaits (otherPort s.arbiter.lastPort) = true →
            pick s = some (.port (otherPort s.arbiter.lastPort)))
          ∧ (s.portWaits (otherPort s.arbiter.lastPort) = false → s.portWaits s.arbiter.lastPort = true →
            pick s = some (.port s.arbiter.lastPort))
          ∧ (s.portWaits .port0 = false → s.portWaits .port1 = false →
            pick s =
              if s.copyWaits = true then some .copy
              else if s.mirrorWaits = true then some .mirror
              else if s.scrubWaits = true then some .scrub
              else none))))

/-- A grant to a port: its operation holds the memory port, its hold timer stops, it becomes the last-granted port,
and a waiting copy engine or mirror writer is passed over once more. With an operation in progress or an open lock
nothing is granted. A granted mirror write: its offset leaves the set and is the last served, and the write takes the
value the word shows now. A granted copy read or write, probe and scrub read hold the memory port; a probe whose bank
is no longer PROBING is withdrawn, and so is an aborted copy's operation. A copy write whose offset the writer has
claimed is withdrawn at its grant, with no memory access, and the engine goes on with the next offset. After a
withdrawal the next grant is made at once. A copy with nothing in flight has its next offset dealt with first (log
41). What a withdrawal or that dealing changes is marked before the next grant, so that the offset of a mirror write
granted then leaves the set. The ticks from which the ready timers are told start at 0 with each grant (log 9). -/
def Obligations.Grants : Prop :=
  (∀ (s : State) (p : Port) (a : Access) (op : PortOp), s.pinAsserted = false → s.arbiter.busy = none →
    s.arbiter.lock = none → copyToDeal s = none → pick s = some (.port p) → (s.port p).phase = .atArbiter a op →
    exec .arbiterGrant s = .next (settle s
      { s.setPort p { s.port p with phase := .granted a op, hold := .stopped } with
        arbiter :=
          ⟨some ⟨.port p, 0⟩, none, p,
            if s.copyWaits = true then min (s.arbiter.copyPass + 1) 8 else s.arbiter.copyPass,
            if s.mirrorWaits = true then min (s.arbiter.mirrorPass + 1) 8 else s.arbiter.mirrorPass⟩ }))
  ∧ (∀ s : State, s.arbiter.busy ≠ none ∨ s.arbiter.lock ≠ none → exec .arbiterGrant s = .next s)
  ∧ (∀ (s : State) (off : Nat) (b : BankId), s.pinAsserted = false → s.arbiter.busy = none → s.arbiter.lock = none →
     copyToDeal s = none → pick s = some .mirror → s.mirror.request = .waiting off → s.bcbBank = some b →
     exec .arbiterGrant s = .next (settle s
       { s with
         mirror :=
           ⟨s.mirror.dirty.erase off, off,
             .inFlight ⟨off, b, s.bcbBase + 4 * off, mirrorWord s off, pendingBits s off⟩⟩
         arbiter := { s.arbiter with busy := some ⟨.mirror, 0⟩, mirrorPass := 0 } }))
  ∧ (∀ (s : State) (j : CopyJob), s.pinAsserted = false → s.arbiter.busy = none → s.arbiter.lock = none →
     pick s = some .copy → s.copy.state = .active j → jobCopying s j = true →
     (j.flight = .readWaiting →
       exec .arbiterGrant s = .next (settle s
         { s with
           copy := { s.copy with state := .active { j with flight := .reading } }
           arbiter := { s.arbiter with busy := some ⟨.copy, 0⟩, copyPass := 0 } }))
     ∧ (j.flight = .writeWaiting → jobClaimed s j j.next = false →
       exec .arbiterGrant s = .next (settle s
         { s with
           copy := { s.copy with state := .active { j with flight := .writing } }
           arbiter := { s.arbiter with busy := some ⟨.copy, 0⟩, copyPass := 0 } })))
  ∧ (∀ (s : State) (b : BankId) (cfg : BankConfig), s.pinAsserted = false → s.arbiter.busy = none →
     s.arbiter.lock = none → copyToDeal s = none → pick s = some (.probe b) → (s.bank b).config = some cfg →
     ((s.bank b).service = .probing →
       exec .arbiterGrant s = .next (settle s
         ((s.setBank b { s.bank b with probe := .inFlight }).setBusy
           (some ⟨.probe b (cfg.base + 4 * cfg.probeOffset), 0⟩))))
     ∧ ((s.bank b).service ≠ .probing → pick (s.setBank b { s.bank b with probe := .none }) = none →
       exec .arbiterGrant s = .next (settle s (s.setBank b { s.bank b with probe := .none }))))
  ∧ (∀ (s : State) (addr : Nat) (b : BankId), s.pinAsserted = false → s.arbiter.busy = none →
     s.arbiter.lock = none → copyToDeal s = none → pick s = some .scrub → s.scrub.position = some addr →
     s.bankOf addr = some b →
     exec .arbiterGrant s = .next (settle s
       { s with
         scrub := { s.scrub with state := .running .reading }
         arbiter := { s.arbiter with busy := some ⟨.scrub b addr, 0⟩ } }))
  ∧ (∀ (s : State) (j : CopyJob),
     (s.copy.state = .active j → jobCopying s j = true → j.flight = .writeWaiting → jobClaimed s j j.next = true →
       grantCopy s = copyAdvance { j with next := j.next + 1 }
         { s with arbiter := { s.arbiter with copyPass := 0 } })
     ∧ (s.copy.state = .active j → jobCopying s j = false →
       grantCopy s =
         { s with
           copy := { s.copy with state := .active { j with flight := .none } }
           arbiter := { s.arbiter with copyPass := 0 } })
     ∧ (s.copy.state = .draining j →
       grantCopy s =
         { s with copy := ⟨s.copy.queue, .idle, false⟩, arbiter := { s.arbiter with copyPass := 0 } }))
  ∧ (∀ (s : State) (j : CopyJob), copyToDeal s = some j ↔
     s.copy.state = .active j ∧ j.flight = .none ∧ jobCopying s j = true)
  ∧ (∀ (s u : State) (j : CopyJob), s.pinAsserted = false → s.arbiter.busy = none → s.arbiter.lock = none →
     copyToDeal s = some j → u = settle s (copyAdvance j s) →
     (pick u = none → exec .arbiterGrant s = .next u)
     ∧ (∀ j', pick u = some .copy → u.copy.state = .active j' → j'.flight = .readWaiting → jobCopying u j' = true →
       exec .arbiterGrant s = .next (settle u
         { u with
           copy := { u.copy with state := .active { j' with flight := .reading } }
           arbiter := { s.arbiter with busy := some ⟨.copy, 0⟩, copyPass := 0 } }))
     ∧ (∀ off b, pick u = some .mirror → s.mirror.request = .waiting off → s.bcbBank = some b →
       exec .arbiterGrant s = .next (settle u
         { u with
           mirror :=
             ⟨u.mirror.dirty.erase off, off,
               .inFlight ⟨off, b, s.bcbBase + 4 * off, mirrorWord u off, pendingBits u off⟩⟩
           arbiter := { s.arbiter with busy := some ⟨.mirror, 0⟩, mirrorPass := 0 } })))
  ∧ (∀ (s u : State) (j : CopyJob), s.pinAsserted = false → s.arbiter.busy = none → s.arbiter.lock = none →
     pick s = some .copy → s.copy.state = .draining j →
     u = settle s { s with copy := ⟨s.copy.queue, .idle, false⟩, arbiter := { s.arbiter with copyPass := 0 } } →
     (pick u = none → exec .arbiterGrant s = .next u)
     ∧ (∀ off b, pick u = some .mirror → s.mirror.request = .waiting off → s.bcbBank = some b →
       exec .arbiterGrant s = .next (settle u
         { u with
           mirror :=
             ⟨u.mirror.dirty.erase off, off,
               .inFlight ⟨off, b, s.bcbBase + 4 * off, mirrorWord u off, pendingBits u off⟩⟩
           arbiter := { u.arbiter with busy := some ⟨.mirror, 0⟩, mirrorPass := 0 } })))
  ∧ (∀ (s : State) (off : Nat) (b : BankId), s.mirror.request = .waiting off → s.bcbBank = some b →
     dirtySetOrdered s → off ∉ (settle s (grantMirror s)).mirror.dirty)

/-- The words a read delivers from clean words. -/
def clearData (s : State) (op : PortOp) (addrs : List Nat) : List Word :=
  addrs.map (fun x => if op.size = 4 then wordRead s.ram x else laneRead (wordRead s.ram x) op.lane op.size)

/-- The ready timer runs anew for each word access of a bank with ready control on; the access it ends is the one
after those that took the given ticks (log 9). An operation ended so: a write keeps the words stored before it and
leaves the word and the later ones, a read delivers the words before it, a sub-word write leaves its word; a rewrite
that times out leaves its word, counts nothing and delivers nothing of it; the port is answered TIMEOUT at that word,
and the bank is reported. A BCB write is handed over all the same, a write half's lock closes, and the end of a
commit's write lets a kept-back read go. The copy engine's operation (DRAINING too), the mirror writer's, the
scrubber's and a probe end so for their requesters, which are noted as timed out and act at their own END row (log
22); the report stands in a list until the bank health unit takes it (log 36); a probe's is its own outcome and is not
reported. With ready control off, or before the timer has run out, there is no TIMEOUT. -/
def Obligations.ReadyTimeoutEndsOperation : Prop :=
  (∀ (s : State) (b : BankId) (waits : List Nat) (n : Nat), s.readyDue b waits n = true ↔
    ∃ cfg t, (s.bank b).config = some cfg ∧ cfg.readyTimeout = some t ∧ (∀ x ∈ waits, x ≤ t) ∧ waits.sum + t ≤ n)
  ∧ (∀ (s : State) (p : Port) (a : Access) (op : PortOp) (waits : List Nat) (n : Nat), s.operating →
    (s.port p).phase = .granted a op → s.arbiter.busy = some ⟨.port p, n⟩ → s.readyDue op.bank waits n = true →
    op.tag = .plain → waits.length < op.addrs.length →
    (op.write = true → op.size = 4 → op.data.length = op.addrs.length →
      exec (.readyTimeout waits) s = .next (settle s
        { giveAnswer p a ⟨[], some .timeout⟩
            (if a.burst.isSome = true then a.addr + BitVec.ofNat 24 (4 * waits.length) else a.addr) a.locked
            (((op.addrs.zip op.data).take waits.length).foldl (fun u e => storeWord op.bank e.1 e.2 u)
              (s.setBusy none)) with
          timeoutReports := s.timeoutReports ++ [op.bank] }))
    ∧ (op.write = false →
      (∀ addr ∈ op.addrs.take waits.length, s.isProtected op.bank = true → s.classAt addr = .clean) →
      exec (.readyTimeout waits) s = .next (settle s
        { giveAnswer p a ⟨clearData s op (op.addrs.take waits.length), some .timeout⟩
            (if a.burst.isSome = true then a.addr + BitVec.ofNat 24 (4 * waits.length) else a.addr) a.locked
            (s.setBusy none) with
          timeoutReports := s.timeoutReports ++ [op.bank] })))
  ∧ (∀ (s : State) (p : Port) (a : Access) (op : PortOp) (waits : List Nat) (n : Nat) (addr : Nat) (v : Word),
    s.operating → (s.port p).phase = .granted a op → s.arbiter.busy = some ⟨.port p, n⟩ →
    s.readyDue op.bank waits n = true → op.tag = .plain → op.write = true → op.size ≠ 4 → op.addrs = [addr] →
    op.data = [v] → a.burst = none →
    waits = [] ∨ (waits.length = 1 ∧ s.isProtected op.bank = true ∧ s.classAt addr ≠ .poisoned) →
    exec (.readyTimeout waits) s = .next (settle s
      { answerFault p a .timeout (s.setBusy none) with timeoutReports := s.timeoutReports ++ [op.bank] }))
  ∧ (∀ (s : State) (p : Port) (a : Access) (op : PortOp) (x n : Nat) (addr : Nat),
    s.operating → (s.port p).phase = .granted a op → s.arbiter.busy = some ⟨.port p, n⟩ →
    s.readyDue op.bank [x] n = true → op.tag = .plain ∨ op.tag = .lockedRead addr → op.write = false →
    op.addrs = [addr] → a.burst = none → s.isProtected op.bank = true →
    (∃ v, s.classAt addr = .corrected v) ∨ s.classAt addr = .uncorrectable →
    exec (.readyTimeout [x]) s = .next (settle s
      { answerFault p a .timeout (s.setBusy none) with timeoutReports := s.timeoutReports ++ [op.bank] }))
  ∧ (∀ (s : State) (p : Port) (a : Access) (op : PortOp) (waits : List Nat) (n : Nat) (pre post : List Nat)
      (addr : Nat),
    s.operating → (s.port p).phase = .granted a op → s.arbiter.busy = some ⟨.port p, n⟩ →
    s.readyDue op.bank waits n = true → op.tag = .plain → op.write = false → op.addrs = pre ++ addr :: post →
    s.isProtected op.bank = true → (∀ x ∈ pre, s.classAt x = .clean) → waits.length = pre.length + 1 →
    (∃ v, s.classAt addr = .corrected v) ∨ s.classAt addr = .uncorrectable →
    exec (.readyTimeout waits) s = .next (settle s
      { giveAnswer p a ⟨clearData s op pre, some .timeout⟩
          (if a.burst.isSome = true then a.addr + BitVec.ofNat 24 (4 * pre.length) else a.addr) a.locked
          (s.setBusy none) with
        timeoutReports := s.timeoutReports ++ [op.bank] }))
  ∧ (∀ (s : State) (p : Port) (a : Access) (op : PortOp) (n : Nat) (addr : Nat) (v : Word),
    s.operating → (s.port p).phase = .granted a op → s.arbiter.busy = some ⟨.port p, n⟩ →
    s.readyDue op.bank [] n = true → op.write = true → op.size = 4 → op.addrs = [addr] → op.data = [v] →
    a.burst = none →
    (op.tag = .bcb (2 + portNat p) →
      exec (.readyTimeout []) s = .next (settle s
        { answerFault p a .timeout (acceptCommand p (beatData a 0) (s.setBusy none)) with
          timeoutReports := s.timeoutReports ++ [op.bank] }))
    ∧ (∀ off, op.tag = .bcb off → off ≠ 2 + portNat p →
      exec (.readyTimeout []) s = .next (settle s
        { (s.setBusy none).setPort p
            { s.port p with phase := .handover a off (beatData a 0) (some .timeout), hold := .stopped } with
          timeoutReports := s.timeoutReports ++ [op.bank] }))
    ∧ (op.tag = .writeHalf →
      exec (.readyTimeout []) s = .next (settle s
        { giveAnswer p a ⟨[], some .timeout⟩ a.addr true ((s.setBusy none).setLock none) with
          timeoutReports := s.timeoutReports ++ [op.bank] }))
    ∧ (∀ c i, op.tag = .commitWord c i →
      exec (.readyTimeout []) s = .next (settle s
        { releaseKeptBack p (.commitWord c i) (answerFault p a .timeout (s.setBusy none)) with
          timeoutReports := s.timeoutReports ++ [op.bank] })))
  ∧ (∀ (s : State) (j : CopyJob) (waits : List Nat) (n : Nat), s.operating →
    s.arbiter.busy = some ⟨.copy, n⟩ → s.readyDue j.bank waits n = true →
    (waits = [] ∧ (j.flight = .reading ∨ j.flight = .writing))
      ∨ (waits.length = 1 ∧ j.flight = .reading ∧ s.isProtected j.bank = true
        ∧ ((∃ v, s.classAt j.sourceAddr = .corrected v) ∨ s.classAt j.sourceAddr = .uncorrectable)) →
    (s.copy.state = .active j →
      exec (.readyTimeout waits) s = .next (settle s
        { s.setBusy none with
          copy := { s.copy with state := .active { j with flight := .timedOut } }
          timeoutReports := s.timeoutReports ++ [j.bank] }))
    ∧ (s.copy.state = .draining j →
      exec (.readyTimeout waits) s = .next (settle s
        { s.setBusy none with
          copy := { s.copy with state := .draining { j with flight := .timedOut } }
          timeoutReports := s.timeoutReports ++ [j.bank] })))
  ∧ (∀ (s : State) (w : MirrorWrite) (n : Nat), s.operating → s.mirror.request = .inFlight w →
    s.arbiter.busy = some ⟨.mirror, n⟩ → s.readyDue w.bank [] n = true →
    exec (.readyTimeout []) s = .next (settle s
      { s.setBusy none with
        mirror := { s.mirror with request := .timedOut w.off }
        timeoutReports := s.timeoutReports ++ [w.bank] }))
  ∧ (∀ (s : State) (b : BankId) (addr n : Nat) (waits : List Nat), s.operating →
    s.arbiter.busy = some ⟨.scrub b addr, n⟩ → s.readyDue b waits n = true →
    waits = [] ∨ (waits.length = 1 ∧ s.isProtected b = true
      ∧ ((∃ v, s.classAt addr = .corrected v) ∨ s.classAt addr = .uncorrectable)) →
    exec (.readyTimeout waits) s = .next (settle s
      { s.setBusy none with
        scrub := { s.scrub with timedOut := some addr }
        timeoutReports := s.timeoutReports ++ [b] }))
  ∧ (∀ (s : State) (b : BankId) (addr n : Nat) (waits : List Nat), s.operating →
    s.arbiter.busy = some ⟨.probe b addr, n⟩ → s.readyDue b waits n = true →
    waits = [] ∨ (waits.length = 1 ∧ s.isProtected b = true
      ∧ ((∃ v, s.classAt addr = .corrected v) ∨ s.classAt addr = .uncorrectable)) →
    ((s.bank b).probe = .inFlight →
      exec (.readyTimeout waits) s = .next (settle s
        ((s.setBusy none).setBank b { s.bank b with probe := .timedOut })))
    ∧ ((s.bank b).probe = .discarded → exec (.readyTimeout waits) s = .next (settle s (s.setBusy none))))
  ∧ (∀ (s : State) (waits : List Nat) (busy : Busy) (b : BankId), s.arbiter.busy = some busy →
    busyBank busy.op s = some b → s.readyDue b waits busy.waited = false → exec (.readyTimeout waits) s = .next s)

/-! ## Window accesses -/

/-- A writer's data write with a filling slot: its offsets are claimed in a carry-forward channel, and its words are
put at the same offsets of the filling slot. Without a filling slot the write opens one and does the same in it; a
commit is carried out in the slot it opened, or waits when the open set up a copy. -/
def Obligations.WriterWrites : Prop :=
  (∀ (s : State) (p : Port) (a : Access) (c : ChanId) (off : Nat) (ch : Channel) (i : Fin 8),
    s.handed p a c off ch → p = ch.config.writer → a.write = true → off ≠ 0 → ch.filling = some i →
    exec (.writerDataWrite p) s = .next (settle s
      (putWords p a
        ((List.range (wordCount a)).map (fun k => ch.config.slotBase + 4 * (i.val * ch.config.len) + 4 * off + 4 * k))
        ((List.range (wordCount a)).map (beatData a)) .plain
        (s.setChan c (some
          (if ch.config.carry = true then
            ch.setSlot i { ch.slot i with written := addOffsets off (wordCount a) (ch.slot i).written }
          else ch))))))
  ∧ (∀ (off n k : Nat) (set : List Nat), k ∈ addOffsets off n set ↔ k ∈ set ∨ (off ≤ k ∧ k < off + n))
  ∧ (∀ (s t : State) (p : Port) (a : Access) (c : ChanId) (off : Nat) (ch ch1 : Channel) (i : Fin 8),
    s.handed p a c off ch → p = ch.config.writer → a.write = true → ch.filling = none →
    openSlot c ch s = some t → t.chan c = some ch1 → ch1.filling = some i →
    (off ≠ 0 →
      exec (.writerDataWrite p) s = .next (settle s
        (putWords p a
          ((List.range (wordCount a)).map (fun k => ch1.config.slotBase + 4 * (i.val * ch1.config.len) + 4 * off + 4 * k))
          ((List.range (wordCount a)).map (beatData a)) .plain
          (t.setChan c (some
            (if ch1.config.carry = true then
              ch1.setSlot i { ch1.slot i with written := addOffsets off (wordCount a) (ch1.slot i).written }
            else ch1))))))
    ∧ (off = 0 → isSingleWord a = true → beatData a 0 ≠ 0 → ch1.copy = .none →
      exec (.commit p) s = .next (settle s (carryOutCommit p a c ch1 i (beatData a 0) t)))
    ∧ (off = 0 → isSingleWord a = true → beatData a 0 ≠ 0 → ch1.copy ≠ .none →
      exec (.commit p) s = .next (settle s
        ((t.setChan c (some { ch1 with waiting := some (beatData a 0) })).setPort p
          { t.port p with phase := .waitingCommit a c }))))

/-- What an open takes: the lowest valid FREE slot that is not held, with a copy queued when R64 sets one up; failing
that, in LATEST, a valid COMMITTED slot that is not held is dropped. The law of R60 leaves one such slot at most, the
newest; in a state outside that law the lowest would be taken (log 27). Otherwise the open is refused. -/
def Obligations.OpenChoosesSlot : Prop :=
  ∀ (s : State) (c : ChanId) (ch : Channel),
    (∀ i, ch.takable i = true → (∀ j, j < i → ch.takable j = false) →
      (ch.carrySource = none →
        openSlot c ch s = some (s.setChan c (some
          { ch.setSlot i { ch.slot i with state := .filling, frame := none, commitTime := none, written := [] } with
            filling := some i })))
      ∧ (∀ n, ch.carrySource = some n → n ≠ i →
        openSlot c ch s = some
          { s.setChan c (some
              { (ch.setSlot i
                  { ch.slot i with state := .filling, frame := none, commitTime := none, written := [] }).setSlot n
                  { ch.slot n with copySource := true } with
                filling := some i, copy := .queued }) with
            copy := { s.copy with queue := s.copy.queue ++ [c] } }))
    ∧ ((∀ i, ch.takable i = false) →
      (ch.config.mode = .queue → openSlot c ch s = none)
      ∧ (ch.config.mode = .latest → (∀ i, ch.droppable i = false) → openSlot c ch s = none)
      ∧ (∀ i, ch.config.mode = .latest → ch.droppable i = true → (∀ j, j < i → ch.droppable j = false) →
        openSlot c ch s = some (raiseChannel c .dropped (s.setChan c (some
          { ch.setSlot i
              { ch.slot i with state := .filling, frame := none, commitTime := none, written := [] } with
            filling := some i
            newest := ch.heldCommitted
            dropped := satInc ch.dropped })))))

/-- An open that finds no slot is refused: BLOCKED to the writer, for a data write and for a commit alike; no slot
changes and nothing goes to memory. -/
def Obligations.RefusedOpenAnsweredBlocked : Prop :=
  ∀ (s : State) (p : Port) (a : Access) (c : ChanId) (off : Nat) (ch : Channel),
    s.handed p a c off ch → p = ch.config.writer → a.write = true → ch.filling = none → openSlot c ch s = none →
    (off ≠ 0 →
      exec (.writerDataWrite p) s = .next (settle s
        (answerFault p a .blocked
          (raiseChannel c .blocked (s.setChan c (some { ch with blocked := satInc ch.blocked }))))))
    ∧ (off = 0 → isSingleWord a = true → beatData a 0 ≠ 0 →
      exec (.commit p) s = .next (settle s
        (answerFault p a .blocked
          (raiseChannel c .blocked (s.setChan c (some { ch with blocked := satInc ch.blocked }))))))

/-- A writer's reads: data from the filling slot, word by word from the copy's source while a copy is QUEUED or
COPYING; without a filling slot from the last committed frame still present; the tag word always from that frame; zero
when there is none. -/
def Obligations.WriterReadsServed : Prop :=
  (∀ (s : State) (p : Port) (a : Access) (c : ChanId) (off : Nat) (ch : Channel),
    s.handed p a c off ch → p = ch.config.writer → a.write = false → off ≠ 0 →
    (∀ i, ch.filling = some i → ch.copy = .none →
      exec (.writerDataRead p) s = .next (settle s
        (putWords p a ((List.range (wordCount a)).map (fun k => ch.config.slotAddr i + 4 * (off + k))) [] .plain s)))
    ∧ (∀ i k, ch.filling = some i → ch.copy = .queued → ch.copySourceSlot = some k →
      exec (.writerDataRead p) s = .next (settle s
        (putWords p a
          ((List.range (wordCount a)).map (fun x =>
            ch.config.slotAddr (if (ch.slot i).written.contains (off + x) then i else k) + 4 * (off + x))) [] .plain s)))
    ∧ (∀ i n k, ch.filling = some i → ch.copy = .copying n → ch.copySourceSlot = some k →
      exec (.writerDataRead p) s = .next (settle s
        (putWords p a
          ((List.range (wordCount a)).map (fun x =>
            ch.config.slotAddr (if (ch.slot i).written.contains (off + x) || decide (off + x < n) then i else k)
              + 4 * (off + x))) [] .plain s)))
    ∧ (∀ i, ch.filling = none → ch.lastFrame = some i →
      exec (.writerDataRead p) s = .next (settle s
        (putWords p a ((List.range (wordCount a)).map (fun k => ch.config.slotAddr i + 4 * off + 4 * k)) [] .plain s)))
    ∧ (ch.filling = none → ch.lastFrame = none →
      exec (.writerDataRead p) s = .next (settle s
        (giveAnswer p a ⟨List.replicate (wordCount a) 0, none⟩ a.addr a.locked s))))
  ∧ (∀ (s : State) (p : Port) (a : Access) (c : ChanId) (ch : Channel),
    s.handed p a c 0 ch → p = ch.config.writer → a.write = false → isSingleWord a = true →
    (∀ i, ch.lastFrame = some i →
      exec (.writerTagRead p) s = .next (settle s (putWords p a [ch.config.slotAddr i] [] .plain s)))
    ∧ (ch.lastFrame = none →
      exec (.writerTagRead p) s = .next (settle s (giveAnswer p a ⟨[0], none⟩ a.addr a.locked s))))
  ∧ (∀ ch : Channel,
    (ch.config.mode = .latest → ch.lastFrame = ch.newest)
    ∧ (ch.config.mode = .queue → ch.lastFrame = ch.committed.getLast?))

/-- A commit with its filling slot and no copy in progress is carried out: the next frame number and the time, its
place among the frames by mode, the freshness timer restarted, LIVE, COMMIT raised, and the word 0 write put. A commit
while a copy is QUEUED or COPYING becomes the waiting commit: its tag is kept, the writer waits. -/
def Obligations.CommitCarriedOut : Prop :=
  (∀ (s : State) (p : Port) (a : Access) (c : ChanId) (ch : Channel) (i : Fin 8),
     s.handed p a c 0 ch → p = ch.config.writer → a.write = true → isSingleWord a = true → beatData a 0 ≠ 0 →
     ch.filling = some i → ch.copy = .none →
     ∃ ch' : Channel,
       exec (.commit p) s = .next (settle s
         (putWords p a [ch.config.slotAddr i] [beatData a 0] (.commitWord c i)
           (raiseChannel c .commit (s.setChan c (some ch')))))
       ∧ ch'.slot i =
           { ch.slot i with
             state := .committed, frame := some (ch.frames + 1), commitTime := some s.msCount, written := [] }
       ∧ ch'.frames = ch.frames + 1 ∧ ch'.lastCommit = some s.msCount ∧ ch'.filling = none ∧ ch'.state = .live
       ∧ ch'.deadline = (if ch.config.freshness = 0 then .stopped else .running ch.config.freshness)
       ∧ (ch.config.mode = .queue →
           ch'.committed = ch.committed ++ [i] ∧ ch'.newest = ch.newest ∧ ∀ j, j ≠ i → ch'.slot j = ch.slot j)
       ∧ (ch.config.mode = .latest →
           ch'.newest = some i ∧ ch'.committed = ch.committed
           ∧ ∀ j, j ≠ i → ch'.slot j =
               (if ch.newest = some j ∧ ch.held ≠ .slot j then
                 { ch.slot j with state := .free, frame := none, commitTime := none, written := [] }
               else ch.slot j))
       ∧ ch'.held = ch.held ∧ ch'.config = ch.config ∧ ch'.copy = ch.copy ∧ ch'.waiting = ch.waiting
       ∧ ch'.dropped = ch.dropped ∧ ch'.lost = ch.lost ∧ ch'.blocked = ch.blocked ∧ ch'.empty = ch.empty
       ∧ ch'.bankUp = ch.bankUp ∧ ch'.notices = ch.notices)
  ∧ (∀ (s : State) (p : Port) (a : Access) (c : ChanId) (ch : Channel) (i : Fin 8),
     s.handed p a c 0 ch → p = ch.config.writer → a.write = true → isSingleWord a = true → beatData a 0 ≠ 0 →
     ch.filling = some i → ch.copy ≠ .none →
     exec (.commit p) s = .next (settle s
       ((s.setChan c (some { ch with waiting := some (beatData a 0) })).setPort p
         { s.port p with phase := .waitingCommit a c })))

/-- A discard ends the filling: the slot FREE, the copy aborted at the engine, OKAY; with no filling slot it is
answered OKAY with no effect. -/
def Obligations.DiscardEndsFilling : Prop :=
  ∀ (s : State) (p : Port) (a : Access) (c : ChanId) (ch : Channel),
    s.handed p a c 0 ch → p = ch.config.writer → a.write = true → isSingleWord a = true → beatData a 0 = 0 →
    (∀ i, ch.filling = some i →
      exec (.discard p) s = .next (settle s
        (giveAnswer p a ⟨[], none⟩ a.addr a.locked
          (abortAtEngine c ch.copy (s.setChan c (some
            { ch with
              slots := (ch.slots.set i
                { ch.slot i with state := .free, frame := none, commitTime := none, written := [] }).map
                  (fun x => { x with copySource := false })
              copy := .none, filling := none, waiting := none }))))))
    ∧ (ch.filling = none →
      exec (.discard p) s = .next (settle s (giveAnswer p a ⟨[], none⟩ a.addr a.locked s)))

/-- A LATEST reader tag read first releases, then takes the newest slot, or the substitute image when STALE under that
policy, or nothing: zero, and the empty counter. A QUEUE reader tag read returns the held frame's tag, or takes the
head of the list, or finds nothing: zero, and the empty counter. A reader tag read of a slot whose commit's word 0
write is outstanding is kept back. -/
def Obligations.ReaderTagReadSnapshots : Prop :=
  (∀ (s : State) (p : Port) (a : Access) (c : ChanId) (ch : Channel),
     s.handed p a c 0 ch → p ≠ ch.config.writer → a.write = false → isSingleWord a = true →
     ch.config.mode = .latest → commitOutstanding p c ((ch.releaseLatest.newest).getD 0) s = false →
     (∀ b, ch.state = .stale → ch.config.policy = .substitute → ch.config.substitute = some b →
       exec (.readerTagRead p) s = .next (settle s
         (putWords p a [b] [] .plain (s.setChan c (some { ch.releaseLatest with held := .substitute })))))
     ∧ (¬ (ch.state = .stale ∧ ch.config.policy = .substitute) →
       (∀ n, ch.releaseLatest.newest = some n →
         exec (.readerTagRead p) s = .next (settle s
           (putWords p a [ch.config.slotAddr n] [] .plain
             (s.setChan c (some { ch.releaseLatest with held := .slot n })))))
       ∧ (ch.releaseLatest.newest = none →
         exec (.readerTagRead p) s = .next (settle s
           (giveAnswer p a ⟨[0], none⟩ a.addr a.locked
             (s.setChan c (some { ch.releaseLatest with held := .none, empty := satInc ch.empty })))))))
  ∧ (∀ (s : State) (p : Port) (a : Access) (c : ChanId) (ch : Channel),
     s.handed p a c 0 ch → p ≠ ch.config.writer → a.write = false → isSingleWord a = true →
     ch.config.mode = .queue →
     (∀ i, ch.held = .slot i → commitOutstanding p c i s = false →
       exec (.readerTagRead p) s = .next (settle s
         (putWords p a [ch.config.slotAddr i] [] .plain (s.setChan c (some ch)))))
     ∧ (∀ i rest, ch.held = .none → ch.committed = i :: rest → commitOutstanding p c i s = false →
       exec (.readerTagRead p) s = .next (settle s
         (putWords p a [ch.config.slotAddr i] [] .plain (s.setChan c (some { ch with held := .slot i })))))
     ∧ (ch.held = .none → ch.committed = [] →
       exec (.readerTagRead p) s = .next (settle s
         (giveAnswer p a ⟨[0], none⟩ a.addr a.locked
           (s.setChan c (some { ch with empty := satInc ch.empty }))))))
  ∧ (∀ (s : State) (p : Port) (a : Access) (c : ChanId) (ch : Channel) (i : Fin 8) (b : BankId),
     s.handed p a c 0 ch → p ≠ ch.config.writer → a.write = false → isSingleWord a = true →
     ch.tagSnapshot.held = .slot i → commitOutstanding p c i s = true →
     ch.tagSnapshot.config = ch.config → s.bankOf (ch.config.slotAddr i) = some b →
     exec (.readerTagRead p) s = .next (settle s
       ((s.setChan c (some ch.tagSnapshot)).setPort p
         { s.port p with
           phase := .keptBack a ⟨b, [ch.config.slotAddr i], false, a.size.val, 0, [], .plain⟩ c i })))

/-- A reader data read is served from what the reader holds; holding nothing it first makes the snapshot of its mode,
which in a STALE channel of that policy takes the substitute image; with nothing found it is zero in every beat, and
the empty counter counts once. -/
def Obligations.ReaderDataReadServed : Prop :=
  ∀ (s : State) (p : Port) (a : Access) (c : ChanId) (off : Nat) (ch : Channel),
    s.handed p a c off ch → p ≠ ch.config.writer → a.write = false → off ≠ 0 →
    (∀ i, ch.held = .slot i →
      exec (.readerDataRead p) s = .next (settle s
        (putWords p a ((List.range (wordCount a)).map (fun k => ch.config.slotAddr i + 4 * off + 4 * k)) [] .plain
          (s.setChan c (some ch)))))
    ∧ (∀ b, ch.held = .substitute → ch.config.substitute = some b →
      exec (.readerDataRead p) s = .next (settle s
        (putWords p a ((List.range (wordCount a)).map (fun k => b + 4 * off + 4 * k)) [] .plain
          (s.setChan c (some ch)))))
    ∧ (∀ b, ch.held = .none → ch.config.mode = .latest → ch.state = .stale → ch.config.policy = .substitute →
        ch.config.substitute = some b →
      exec (.readerDataRead p) s = .next (settle s
        (putWords p a ((List.range (wordCount a)).map (fun k => b + 4 * off + 4 * k)) [] .plain
          (s.setChan c (some { ch with held := .substitute })))))
    ∧ (∀ n, ch.held = .none → ch.config.mode = .latest →
        ¬ (ch.state = .stale ∧ ch.config.policy = .substitute) → ch.newest = some n →
      exec (.readerDataRead p) s = .next (settle s
        (putWords p a ((List.range (wordCount a)).map (fun k => ch.config.slotAddr n + 4 * off + 4 * k)) [] .plain
          (s.setChan c (some { ch with held := .slot n })))))
    ∧ (ch.held = .none → ch.config.mode = .latest →
        ¬ (ch.state = .stale ∧ ch.config.policy = .substitute) → ch.newest = none →
      exec (.readerDataRead p) s = .next (settle s
        (giveAnswer p a ⟨List.replicate (wordCount a) 0, none⟩ a.addr a.locked
          (s.setChan c (some { ch with empty := satInc ch.empty })))))
    ∧ (∀ n rest, ch.held = .none → ch.config.mode = .queue → ch.committed = n :: rest →
      exec (.readerDataRead p) s = .next (settle s
        (putWords p a ((List.range (wordCount a)).map (fun k => ch.config.slotAddr n + 4 * off + 4 * k)) [] .plain
          (s.setChan c (some { ch with held := .slot n })))))
    ∧ (ch.held = .none → ch.config.mode = .queue → ch.committed = [] →
      exec (.readerDataRead p) s = .next (settle s
        (giveAnswer p a ⟨List.replicate (wordCount a) 0, none⟩ a.addr a.locked
          (s.setChan c (some { ch with empty := satInc ch.empty })))))

/-- A LATEST release, whatever its value: OKAY when its request is taken, and the held frame let go. It is what the
tag read does first. -/
def Obligations.LatestReleaseLetsGo : Prop :=
  (∀ (s : State) (p : Port) (a : Access) (c : ChanId) (ch : Channel),
    s.handed p a c 0 ch → p ≠ ch.config.writer → a.write = true → isSingleWord a = true →
    ch.config.mode = .latest →
    exec (.release p) s = .next (settle s
      (giveAnswer p a ⟨[], none⟩ a.addr a.locked (s.setChan c (some ch.releaseLatest)))))
  ∧ (∀ ch : Channel,
    (∀ i, ch.held = .slot i → ch.valid i = true → ch.newest ≠ some i →
      ch.releaseLatest =
        { ch with
          slots := ch.slots.set i
            { ch.slot i with state := .free, frame := none, commitTime := none, written := [] }
          held := .none })
    ∧ (∀ i, ch.held = .slot i → ch.valid i = true → ch.newest = some i →
      ch.releaseLatest = { ch with held := .none })
    ∧ (∀ i, ch.held = .slot i → ch.valid i = false →
      ch.releaseLatest =
        { ch with
          slots := ch.slots.set i
            { ch.slot i with state := .free, frame := none, commitTime := none, written := [] }
          held := .none
          newest := if ch.newest = some i then none else ch.newest })
    ∧ (ch.held = .substitute → ch.releaseLatest = { ch with held := .none })
    ∧ (ch.held = .none → ch.releaseLatest = ch)
    ∧ (ch.config.mode = .latest → ch.tagSnapshot = ch.releaseLatest.snapshotLatest))

/-- A QUEUE release frees the held slot, takes it off the list and raises CONSUMED; with nothing held it has no
effect. -/
def Obligations.QueueReleaseConsumes : Prop :=
  ∀ (s : State) (p : Port) (a : Access) (c : ChanId) (ch : Channel),
    s.handed p a c 0 ch → p ≠ ch.config.writer → a.write = true → isSingleWord a = true →
    ch.config.mode = .queue →
    (∀ i, ch.held = .slot i →
      exec (.release p) s = .next (settle s
        (giveAnswer p a ⟨[], none⟩ a.addr a.locked
          (raiseChannel c .consumed (s.setChan c (some
            { ch with
              slots := ch.slots.set i
                { ch.slot i with state := .free, frame := none, commitTime := none, written := [] }
              held := .none, committed := ch.committed.erase i }))))))
    ∧ (ch.held = .none →
      exec (.release p) s = .next (settle s (giveAnswer p a ⟨[], none⟩ a.addr a.locked s)))

/-- The two checks before a window access is taken: FORM for a tag-word access that is not a single word, whatever its
kind; ROLE for a reader's write of data words. Neither changes the channel. A malformed writer's tag write is taken as
a commit or as a discard by its first word: the model's choice (log 23). -/
def Obligations.WindowChecks : Prop :=
  (∀ (s : State) (p : Port) (a : Access) (c : ChanId) (off : Nat) (ch : Channel),
    s.handed p a c off ch → p ≠ ch.config.writer → a.write = true → off ≠ 0 →
    exec (.readerDataWrite p) s = .next (settle s (answerFault p a .role s)))
  ∧ (∀ (s : State) (p : Port) (a : Access) (c : ChanId) (ch : Channel),
    s.handed p a c 0 ch → isSingleWord a = false →
    (p = ch.config.writer → a.write = true → beatData a 0 ≠ 0 →
      exec (.commit p) s = .next (settle s (answerFault p a .form s)))
    ∧ (p = ch.config.writer → a.write = true → beatData a 0 = 0 →
      exec (.discard p) s = .next (settle s (answerFault p a .form s)))
    ∧ (p = ch.config.writer → a.write = false →
      exec (.writerTagRead p) s = .next (settle s (answerFault p a .form s)))
    ∧ (p ≠ ch.config.writer → a.write = true →
      exec (.release p) s = .next (settle s (answerFault p a .form s)))
    ∧ (p ≠ ch.config.writer → a.write = false →
      exec (.readerTagRead p) s = .next (settle s (answerFault p a .form s))))

/-! ## Slots leaving use -/

/-- A slot whose frame is lost when the channel's bank leaves service: valid until then, COMMITTED, not held. -/
def leavesUse (ch : Channel) (i : Fin 8) : Bool :=
  decide (i.val < ch.config.depth) && ch.valid i && (ch.slot i).state == .committed && !ch.holds i

/-- A leaving notice at a LIVE or STALE channel: every slot that was valid becomes invalid; the filling slot is
abandoned with its copy and its waiting commit, frames not held are lost and counted, held ones stay; both happen in
the one request. At an OFF channel only the validity changes. An entering notice makes the slots that are not retired
valid again. What an abandonment does at the engine: a QUEUED channel leaves the queue, a COPYING one is notified; the
waiting commit is answered. -/
def Obligations.NoticesTakenAtChannel : Prop :=
  (∀ (s : State) (c : ChanId) (ch : Channel) (rest : List Notice), s.pinAsserted = false → s.chan c = some ch →
    ch.notices = .leaving :: rest → ch.state = .off →
    exec (.leavingNotice c) s = .next (settle s
      (s.setChan c (some { ch with notices := rest, bankUp := false }))))
  ∧ (∀ (s : State) (c : ChanId) (ch : Channel) (rest : List Notice), s.pinAsserted = false → s.chan c = some ch →
    ch.notices = .leaving :: rest → ch.state ≠ .off → ch.filling = none →
    (∀ i, (ch.slot i).state = .committed → ch.holds i = true) →
    exec (.leavingNotice c) s = .next (settle s
      (s.setChan c (some { ch with notices := rest, bankUp := false }))))
  ∧ (∀ (s : State) (c : ChanId) (ch : Channel) (rest : List Notice) (n : Fin 8), s.pinAsserted = false →
    s.chan c = some ch → ch.notices = .leaving :: rest → ch.state ≠ .off → ch.filling = none →
    leavesUse ch n = true →
    ∃ ch' : Channel,
      exec (.leavingNotice c) s = .next (settle s (raiseChannel c .lost (s.setChan c (some ch'))))
      ∧ (∀ i, ch'.slot i =
          if leavesUse ch i = true then
            { ch.slot i with state := .free, frame := none, commitTime := none, written := [] }
          else ch.slot i)
      ∧ ch'.lost = satAdd ch.lost (slotIds.filter (leavesUse ch)).length
      ∧ ch'.newest =
          (if ∃ i, ch.newest = some i ∧ leavesUse ch i = true then ch.heldCommitted else ch.newest)
      ∧ ch'.committed = ch.committed.filter (fun i => !leavesUse ch i)
      ∧ ch'.bankUp = false ∧ ch'.notices = rest ∧ ch'.state = ch.state ∧ ch'.held = ch.held
      ∧ ch'.frames = ch.frames ∧ ch'.lastCommit = ch.lastCommit ∧ ch'.copy = ch.copy ∧ ch'.filling = none)
  ∧ (∀ (s : State) (c : ChanId) (ch : Channel) (rest : List Notice), s.pinAsserted = false → s.chan c = some ch →
    ch.notices = .entering :: rest →
    exec (.enteringNotice c) s = .next (settle s
      (s.setChan c (some { ch with notices := rest, bankUp := true }))))
  ∧ (∀ (s : State) (c : ChanId) (ch : Channel) (rest : List Notice) (i : Fin 8), s.pinAsserted = false →
     s.chan c = some ch → ch.notices = .leaving :: rest → ch.state ≠ .off → ch.filling = some i →
     (ch.slot i).state = .filling → i.val < ch.config.depth → ch.valid i = true →
     ∃ (ch' : Channel) (t : State),
       t = raiseChannel c .abandoned (answerWaiting ch.config.writer c .abandoned
             (abortAtEngine c ch.copy (s.setChan c (some ch'))))
       ∧ ((∀ k, leavesUse ch k = false) → exec (.leavingNotice c) s = .next (settle s t))
       ∧ (∀ k, leavesUse ch k = true → exec (.leavingNotice c) s = .next (settle s (raiseChannel c .lost t)))
       ∧ (∀ k, ch'.slot k =
           if k = i ∨ leavesUse ch k = true then
             { ch.slot k with
               state := .free, frame := none, commitTime := none, written := [], copySource := false }
           else { ch.slot k with copySource := false })
       ∧ ch'.lost = satAdd ch.lost (slotIds.filter (leavesUse ch)).length
       ∧ ch'.newest =
           (if ∃ k, ch.newest = some k ∧ leavesUse ch k = true then ch.heldCommitted else ch.newest)
       ∧ ch'.committed = ch.committed.filter (fun k => !leavesUse ch k)
       ∧ ch'.filling = none ∧ ch'.copy = .none ∧ ch'.waiting = none ∧ ch'.held = ch.held
       ∧ ch'.frames = ch.frames ∧ ch'.lastCommit = ch.lastCommit ∧ ch'.state = ch.state
       ∧ ch'.bankUp = false ∧ ch'.notices = rest)
  ∧ (∀ (s : State) (c : ChanId),
     abortAtEngine c .none s = s
     ∧ abortAtEngine c .queued s = { s with copy := { s.copy with queue := s.copy.queue.erase c } }
     ∧ (∀ n, abortAtEngine c (.copying n) s = { s with copy := { s.copy with abortNotice := true } }))
  ∧ (∀ (s : State) (p : Port) (c : ChanId) (f : FaultCode),
     (∀ a, (s.port p).phase = .waitingCommit a c → answerWaiting p c f s = answerFault p a f s)
     ∧ ((∀ a, (s.port p).phase ≠ .waitingCommit a c) → answerWaiting p c f s = s))

/-! ## The copy engine -/

/-- The idle engine takes the head of the queue: the channel becomes COPYING from offset 1, and the engine ACTIVE with
nothing in flight; with every offset claimed already it reports completion at once. The abort notice: an ACTIVE engine
with an operation in flight drains it, with none it is IDLE; an ENDING one waits for its report. -/
def Obligations.CopyTakesHead : Prop :=
  (∀ (s : State) (c : ChanId) (rest : List ChanId) (ch : Channel) (t k : Fin 8) (b : BankId),
     s.pinAsserted = false → s.copy = ⟨c :: rest, .idle, false⟩ → s.chan c = some ch → ch.filling = some t →
     ch.copySourceSlot = some k → s.bankOf ch.config.slotBase = some b →
     (∀ x, 1 ≤ x → x < ch.config.len → (ch.slot t).written.contains x = false →
       exec .copyTakeHead s = .next (settle s
         { s.setChan c (some { ch with copy := .copying 1 }) with
           copy := ⟨rest,
             .active ⟨c, k, t, 1, .none, none, ch.config.len, b, ch.config.slotAddr k, ch.config.slotAddr t⟩,
             false⟩ }))
     ∧ (1 ≤ ch.config.len → (∀ x, 1 ≤ x → x < ch.config.len → (ch.slot t).written.contains x = true) →
       exec .copyTakeHead s = .next (settle s
         { s.setChan c (some { ch with copy := .copying ch.config.len }) with
           copy := ⟨rest,
             .ending ⟨c, k, t, ch.config.len, .none, none, ch.config.len, b, ch.config.slotAddr k,
               ch.config.slotAddr t⟩ .completion,
             false⟩ })))
  ∧ (∀ s : State, s.pinAsserted = false → s.copy.abortNotice = true →
     (∀ j, s.copy.state = .active j → j.flight ≠ .none →
       exec .copyAbortNotice s = .next (settle s { s with copy := ⟨s.copy.queue, .draining j, false⟩ }))
     ∧ (∀ j, s.copy.state = .active j → j.flight = .none →
       exec .copyAbortNotice s = .next (settle s { s with copy := ⟨s.copy.queue, .idle, false⟩ }))
     ∧ (∀ j r, s.copy.state = .ending j r →
       exec .copyAbortNotice s = .next (settle s { s with copy := ⟨s.copy.queue, .ending j r, false⟩ })))

/-- A copy read ends: the write of the word read is put, a good write for a clean or corrected word and a poison write
for an uncorrectable or poisoned one, after what the check unit does with the word; in a bank out of service the copy
fails. A copy write ends: the target word holds the word, good or poisoned as its source was, and the engine goes on
with the next offset. The engine at its next offset: a claimed offset is passed over, an unclaimed one is read when
the bank is in service and fails the copy when it is not, and the end of the window is reported as completion. The end
of an operation that timed out fails the copy; a draining engine is IDLE when its operation has ended. -/
def Obligations.CopyOperationEnds : Prop :=
  (∀ (s : State) (j : CopyJob) (n : Nat), s.pinAsserted = false → s.copy.state = .active j →
    j.flight = .reading → s.arbiter.busy = some ⟨.copy, n⟩ → s.inService j.bank = true →
    (s.isProtected j.bank = true → s.classAt j.sourceAddr = .clean) →
    exec .copyOperationEnd s = .next (settle s
      ((s.setBusy none).setEngine (.active
        { j with flight := .writeWaiting, word := some ⟨wordRead s.ram j.sourceAddr, false⟩ }))))
  ∧ (∀ (s : State) (j : CopyJob) (n : Nat), s.pinAsserted = false → s.copy.state = .active j →
    j.flight = .reading → s.arbiter.busy = some ⟨.copy, n⟩ → s.inService j.bank = true →
    s.isProtected j.bank = true → s.classAt j.sourceAddr = .poisoned →
    exec .copyOperationEnd s = .next (settle s
      ((s.setBusy none).setEngine (.active
        { j with flight := .writeWaiting, word := some ⟨wordRead s.ram j.sourceAddr, true⟩ }))))
  ∧ (∀ (s : State) (j : CopyJob) (n : Nat), s.pinAsserted = false → s.copy.state = .active j →
    j.flight = .reading → s.arbiter.busy = some ⟨.copy, n⟩ → s.inService j.bank = true →
    s.isProtected j.bank = true →
    (∀ v, s.classAt j.sourceAddr = .corrected v →
      exec .copyOperationEnd s = .next (settle s
        ((countCorrected (storeWord j.bank j.sourceAddr v (s.setBusy none))).setEngine (.active
          { j with flight := .writeWaiting, word := some ⟨v, false⟩ }))))
    ∧ (s.classAt j.sourceAddr = .uncorrectable →
      exec .copyOperationEnd s = .next (settle s
        ((countUncorrectable .copy j.bank j.sourceAddr
            (storePoison j.sourceAddr (wordRead s.ram j.sourceAddr) (s.setBusy none))).setEngine (.active
          { j with flight := .writeWaiting, word := some ⟨wordRead s.ram j.sourceAddr, true⟩ })))))
  ∧ (∀ (s : State) (j : CopyJob) (n : Nat), s.pinAsserted = false → s.copy.state = .active j →
    j.flight = .reading → s.arbiter.busy = some ⟨.copy, n⟩ → s.inService j.bank = false →
    ∃ w, exec .copyOperationEnd s = .next (settle s
      ((readAccess .copy j.bank j.sourceAddr none (s.setBusy none)).2.2.setEngine
        (.ending { j with flight := .none, word := w } .failure))))
  ∧ (∀ (s : State) (j : CopyJob) (n : Nat) (v : Word), s.pinAsserted = false → s.copy.state = .active j →
    j.flight = .writing → s.arbiter.busy = some ⟨.copy, n⟩ →
    (j.word = some ⟨v, false⟩ →
      exec .copyOperationEnd s = .next (settle s
        (copyAdvance { j with next := j.next + 1 } (storeWord j.bank j.targetAddr v (s.setBusy none)))))
    ∧ (j.word = some ⟨v, true⟩ →
      exec .copyOperationEnd s = .next (settle s
        (copyAdvance { j with next := j.next + 1 } (storePoison j.targetAddr v (s.setBusy none))))))
  ∧ (∀ (s : State) (j : CopyJob) (ch : Channel) (n : Nat), s.chan j.channel = some ch → ch.copy = .copying n →
     (j.next < j.len → (ch.slot j.target).written.contains j.next = true →
       copyAdvance j s = copyAdvance { j with next := j.next + 1 } s)
     ∧ (j.next < j.len → (ch.slot j.target).written.contains j.next = false → s.inService j.bank = true →
       copyAdvance j s =
         (s.setChan j.channel (some { ch with copy := .copying j.next })).setEngine
           (.active { j with flight := .readWaiting, word := none }))
     ∧ (j.next < j.len → (ch.slot j.target).written.contains j.next = false → s.inService j.bank = false →
       copyAdvance j s =
         (s.setChan j.channel (some { ch with copy := .copying j.next })).setEngine
           (.ending { j with flight := .none, word := none } .failure))
     ∧ (j.next = j.len →
       copyAdvance j s =
         (s.setChan j.channel (some { ch with copy := .copying j.next })).setEngine
           (.ending { j with flight := .none, word := none } .completion)))
  ∧ (∀ (s : State) (j : CopyJob), s.pinAsserted = false → s.arbiter.busy = none → j.flight = .timedOut →
     (s.copy.state = .active j →
       exec .copyOperationEnd s = .next (settle s
         { s with copy := { s.copy with state := .ending { j with flight := .none } .failure } }))
     ∧ (s.copy.state = .draining j →
       exec .copyOperationEnd s = .next (settle s { s with copy := ⟨s.copy.queue, .idle, false⟩ })))
  ∧ (∀ (s : State) (j : CopyJob) (n : Nat), s.pinAsserted = false → s.copy.state = .draining j →
     s.arbiter.busy = some ⟨.copy, n⟩ →
     (j.flight = .reading → (s.isProtected j.bank = true → s.classAt j.sourceAddr = .clean) →
       exec .copyOperationEnd s = .next (settle s
         { s.setBusy none with copy := ⟨s.copy.queue, .idle, false⟩ }))
     ∧ (j.flight = .reading →
       exec .copyOperationEnd s = .next (settle s
         { (readAccess .copy j.bank j.sourceAddr none (s.setBusy none)).2.2 with
           copy := ⟨s.copy.queue, .idle, false⟩ }))
     ∧ (∀ v, j.flight = .writing → j.word = some ⟨v, false⟩ →
       exec .copyOperationEnd s = .next (settle s
         { storeWord j.bank j.targetAddr v (s.setBusy none) with copy := ⟨s.copy.queue, .idle, false⟩ }))
     ∧ (∀ v, j.flight = .writing → j.word = some ⟨v, true⟩ →
       exec .copyOperationEnd s = .next (settle s
         { storePoison j.targetAddr v (s.setBusy none) with copy := ⟨s.copy.queue, .idle, false⟩ })))

/-- The reports taken at the channel: a completion ends the copy and keeps the filling, a failure abandons it, and
answers a waiting commit ABANDONED; in a channel that is no longer COPYING (its copy ended, its next copy QUEUED, or
the entry UNCONFIGURED) neither has an effect there. The engine is IDLE afterwards. A completion with a waiting commit
carries it out in its own request. -/
def Obligations.CopyReportsTaken : Prop :=
  (∀ (s : State) (j : CopyJob) (ch : Channel) (n : Nat), s.pinAsserted = false →
    s.copy.state = .ending j .completion → s.chan j.channel = some ch → ch.copy = .copying n → ch.waiting = none →
    exec .copyCompletion s = .next (settle s
      (({ s with copy := ⟨s.copy.queue, .idle, false⟩ } : State).setChan j.channel (some
        { ch with copy := .none, slots := ch.slots.map (fun x => { x with copySource := false }) }))))
  ∧ (∀ (s : State) (j : CopyJob) (ch : Channel) (n : Nat) (i : Fin 8), s.pinAsserted = false →
    s.copy.state = .ending j .failure → s.chan j.channel = some ch → ch.copy = .copying n → ch.filling = some i →
    ∃ t : State,
      t = ({ s with copy := ⟨s.copy.queue, .idle, false⟩ } : State).setChan j.channel (some
          { ch with
            slots := (ch.slots.set i
              { ch.slot i with state := .free, frame := none, commitTime := none, written := [] }).map
                (fun x => { x with copySource := false })
            copy := .none, filling := none, waiting := none })
      ∧ ((∀ a, (s.port ch.config.writer).phase ≠ .waitingCommit a j.channel) →
        exec .copyFailure s = .next (settle s (raiseChannel j.channel .abandoned t)))
      ∧ (∀ a, (s.port ch.config.writer).phase = .waitingCommit a j.channel →
        exec .copyFailure s = .next (settle s
          (raiseChannel j.channel .abandoned (answerFault ch.config.writer a .abandoned t)))))
  ∧ (∀ (s : State) (j : CopyJob), s.pinAsserted = false →
    (∀ ch n, s.chan j.channel = some ch → ch.copy ≠ .copying n) →
    (s.copy.state = .ending j .completion →
      exec .copyCompletion s = .next (settle s { s with copy := ⟨s.copy.queue, .idle, false⟩ }))
    ∧ (s.copy.state = .ending j .failure →
      exec .copyFailure s = .next (settle s { s with copy := ⟨s.copy.queue, .idle, false⟩ })))
  ∧ (∀ (s : State) (j : CopyJob) (ch : Channel) (n : Nat) (i : Fin 8) (tag : Word) (a : Access),
     s.pinAsserted = false → s.copy.state = .ending j .completion → s.chan j.channel = some ch →
     ch.copy = .copying n → ch.filling = some i → ch.waiting = some tag →
     (s.port ch.config.writer).phase = .waitingCommit a j.channel →
     exec .copyCompletion s = .next (settle s
       (carryOutCommit ch.config.writer a j.channel
         { ch with
           copy := .none, waiting := none, slots := ch.slots.map (fun x => { x with copySource := false }) }
         i tag { s with copy := ⟨s.copy.queue, .idle, false⟩ })))

/-! ## Mirror writer, flags and lines -/

/-- The mirror writer serves the lowest dirty offset above the last served, or the lowest of all, and makes no request
while the BCB's bank is out of service. A completed mirror write: the word holds the value, every byte outside it is
as before, and exactly the flags it carried that are still PENDING become POSTED; one that completes while that bank
is out of service posts nothing, and its offset rejoins the set if it carried flags (log 40). One that timed out has
its offset rejoin the set. -/
def Obligations.MirrorWriter : Prop :=
  (∀ (s : State) (off : Nat), s.operating → s.mirror.request = .none → s.bcbInService = true →
    off ∈ s.mirror.dirty → s.mirror.last < off →
    (∀ k ∈ s.mirror.dirty, s.mirror.last < k → off ≤ k) → dirtySetOrdered s →
    exec .mirrorWriteRequest s = .next (settle s { s with mirror := { s.mirror with request := .waiting off } }))
  ∧ (∀ (s : State) (off : Nat), s.operating → s.mirror.request = .none → s.bcbInService = true →
    off ∈ s.mirror.dirty → (∀ k ∈ s.mirror.dirty, k ≤ s.mirror.last ∧ off ≤ k) → dirtySetOrdered s →
    exec .mirrorWriteRequest s = .next (settle s { s with mirror := { s.mirror with request := .waiting off } }))
  ∧ (∀ s : State, s.bcbInService = false → exec .mirrorWriteRequest s = .next s)
  ∧ (∀ (s : State) (w : MirrorWrite) (n : Nat), s.pinAsserted = false → s.mirror.request = .inFlight w →
    s.arbiter.busy = some ⟨.mirror, n⟩ →
    (s.inService w.bank = true →
      exec .mirrorWriteEnd s = .next (settle s
        (postFlags w.off w.carried
          (storeWord w.bank w.addr w.value { s.setBusy none with mirror := { s.mirror with request := .none } }))))
    ∧ (s.inService w.bank = false → w.carried = [] →
      exec .mirrorWriteEnd s = .next (settle s
        (storeWord w.bank w.addr w.value { s.setBusy none with mirror := { s.mirror with request := .none } })))
    ∧ (s.inService w.bank = false → w.carried ≠ [] →
      exec .mirrorWriteEnd s = .next (settle s
        (markDirty w.off
          (storeWord w.bank w.addr w.value { s.setBusy none with mirror := { s.mirror with request := .none } })))))
  ∧ (∀ (s : State) (off : Nat), s.pinAsserted = false → s.mirror.request = .timedOut off →
    exec .mirrorWriteEnd s = .next (settle s
      (markDirty off { s with mirror := { s.mirror with request := .none } })))
  ∧ (∀ (s : State) (w : MirrorWrite), memoryCanonical s →
      wordRead (storeWord w.bank w.addr w.value s).ram w.addr = w.value
      ∧ ∀ x, x < w.addr ∨ w.addr + 4 ≤ x →
        cellRead (storeWord w.bank w.addr w.value s).ram x = cellRead s.ram x)
  ∧ (∀ (s : State) (carried : List Nat) (l : Port) (n : Fin 9),
      (postFlags (14 + portNat l) carried s).globalStage l n =
        if carried.contains n.val = true ∧ s.globalStage l n = .pending then .posted else s.globalStage l n)
  ∧ (∀ (s : State) (carried : List Nat) (c : ChanId) (n : Fin 7),
      (postFlags (16 + c.val) carried s).channelStage c n =
        if carried.contains n.val = true ∧ s.channelStage c n = .pending then .posted else s.channelStage c n)

/-- A raised flag that is CLEAR becomes PENDING; one that is PENDING or POSTED stays; no other flag and nothing else
changes. A line is asserted exactly when a posted, unmasked flag of it is set: a global flag under its bit of the
global mask, a flag of a configured channel routed to the line under the channel's bit of the channel mask. -/
def Obligations.FlagsAndLines : Prop :=
  (∀ (s : State) (l : Port) (f : GlobalFlag),
    (s.globalStage l f.bit = .clear → raiseGlobal l f s = s.setGlobalStage l f.bit .pending)
    ∧ (s.globalStage l f.bit ≠ .clear → raiseGlobal l f s = s))
  ∧ (∀ (s : State) (c : ChanId) (f : ChannelFlag),
    (s.channelStage c f.bit = .clear → raiseChannel c f s = s.setChannelStage c f.bit .pending)
    ∧ (s.channelStage c f.bit ≠ .clear → raiseChannel c f s = s))
  ∧ (∀ (s : State) (l : Port),
     s.line l = true ↔
       (∃ n : Fin 9, s.globalStage l n = .posted ∧ (s.globalMask.get l).getLsbD n.val = true)
       ∨ (∃ (c : ChanId) (ch : Channel) (n : Fin 7), s.chan c = some ch ∧ s.channelStage c n = .posted
           ∧ (s.channelMask.get l).getLsbD c.val = true
           ∧ (if n.val < 3 then ch.config.reader else ch.config.writer) = l))

/-! ## Handovers -/

/-- A command word's handover: accepted as PENDING when the port's command state is IDLE, with its order of
acceptance; refused BUSY otherwise, with CMD_DONE. One handed over during LOADING to an IDLE command state, by a write
granted before the RELOAD, is dropped (log 18). A BCB write is handed over whatever its memory operation ended with: a
command word in the step of the operation's end, before the answer; a mask, ack or staging word is then kept, with the
outcome of its write, for the word's own step, and the port waits unanswered until that step (the model's choice, log
21). -/
def Obligations.CommandHandover : Prop :=
  (∀ (s : State) (p : Port) (w : Word),
     ((s.command p).state = .idle → s.device = .loading → acceptCommand p w s = s)
     ∧ ((s.command p).state = .idle → s.device ≠ .loading →
       acceptCommand p w s = markDirty (4 + portNat p)
         { s.setCommand p ⟨.pending w s.nextStamp, w, .pending, none⟩ with nextStamp := s.nextStamp + 1 })
     ∧ ((s.command p).state ≠ .idle →
       acceptCommand p w s = raiseGlobal p .cmdDone (markDirty (4 + portNat p)
         (s.setCommand p { s.command p with refused := some (BitVec.ofNat 8 (w.toNat % 256)) }))))
  ∧ (∀ (s : State) (p : Port) (a : Access) (op : PortOp) (r : OpResult) (off : Nat), op.tag = .bcb off →
     (off = 2 + portNat p →
       endPortOp p a op r s = giveAnswer p a ⟨[], r.fault⟩ a.addr a.locked (acceptCommand p (beatData a 0) s))
     ∧ (off ≠ 2 + portNat p →
       endPortOp p a op r s = s.setPort p
         { s.port p with phase := .handover a off (beatData a 0) r.fault, hold := .stopped }))
  ∧ (∀ (s : State) (p : Port) (a : Access) (op : PortOp) (off addr : Nat) (v : Word), s.running p a op →
     op.write = true → op.size = 4 → op.tag = .bcb off → op.addrs = [addr] → op.data = [v] →
     (off = 2 + portNat p →
       exec (.portOperationEnd p) s = .next (settle s
         (giveAnswer p a ⟨[], none⟩ a.addr a.locked
           (acceptCommand p (beatData a 0) (storeWord op.bank addr v (s.setBusy none))))))
     ∧ (off ≠ 2 + portNat p →
       exec (.portOperationEnd p) s = .next (settle s
         ((storeWord op.bank addr v (s.setBusy none)).setPort p
           { s.port p with phase := .handover a off (beatData a 0) none, hold := .stopped }))))

/-- Mask words: the mask takes the value written and the word is marked; then the port is answered by the memory
outcome of its write, in the same step (log 21). A staging word: the writing port's internal copy takes the value at
that offset, whatever the memory outcome. -/
def Obligations.WordHandovers : Prop :=
  (∀ (s : State) (p : Port) (a : Access) (off : Nat) (v : Word) (e : Option FaultCode), s.pinAsserted = false →
     (s.port p).phase = .handover a off v e →
     (off = 6 → exec (.globalMaskWrite p) s = .next (settle s
       (giveAnswer p a ⟨[], e⟩ a.addr a.locked
         (settle s (markDirty 6 { s with globalMask := { s.globalMask with first := v } })))))
     ∧ (off = 7 → exec (.globalMaskWrite p) s = .next (settle s
       (giveAnswer p a ⟨[], e⟩ a.addr a.locked
         (settle s (markDirty 7 { s with globalMask := { s.globalMask with second := v } })))))
     ∧ (off = 8 → exec (.channelMaskWrite p) s = .next (settle s
       (giveAnswer p a ⟨[], e⟩ a.addr a.locked
         (settle s (markDirty 8 { s with channelMask := { s.channelMask with first := v } })))))
     ∧ (off = 9 → exec (.channelMaskWrite p) s = .next (settle s
       (giveAnswer p a ⟨[], e⟩ a.addr a.locked
         (settle s (markDirty 9 { s with channelMask := { s.channelMask with second := v } }))))))
  ∧ (∀ (s : State) (p : Port) (a : Access) (k : Fin 16) (v : Word) (e : Option FaultCode), s.pinAsserted = false →
     (s.port p).phase = .handover a (32 + 16 * portNat p + k.val) v e →
     exec (.stagingWrite p) s = .next (settle s
       (giveAnswer p a ⟨[], e⟩ a.addr a.locked
         (settle s { s with staging := s.staging.set p ((s.staging.get p).set k v) }))))

/-- A port record with its capture emptied. -/
def captureEmptied (r : PortRecord) : PortRecord := { r with capture := ⟨none, 0⟩ }

/-- The ack words: what is taken, and which flags and captures each clears; what it clears is marked before the answer
is given in the same step (log 17, log 21), which may raise ACCESS_FAULT or fill a capture again. BANK_FENCED stays
while a bank is FENCED, STALE while the channel is STALE; a number that is UNCONFIGURED or above 15 clears nothing.
The flags of the other line and of the other channels stay, and so does everything but the flags and what a write in
flight carries: that write no longer posts a flag cleared, even when it has been set again. -/
def Obligations.AckHandovers : Prop :=
  (∀ (s : State) (p : Port) (a : Access) (off : Nat) (v : Word) (e : Option FaultCode), s.pinAsserted = false →
    (s.port p).phase = .handover a off v e →
    (off = 10 → exec (.globalAck p) s = .next (settle s
      (giveAnswer p a ⟨[], e⟩ a.addr a.locked (settle s (ackGlobal .port0 v s)))))
    ∧ (off = 11 → exec (.globalAck p) s = .next (settle s
      (giveAnswer p a ⟨[], e⟩ a.addr a.locked (settle s (ackGlobal .port1 v s)))))
    ∧ (off = 12 → exec (.channelAck p) s = .next (settle s
      (giveAnswer p a ⟨[], e⟩ a.addr a.locked (settle s (ackChannel v s)))))
    ∧ (off = 13 → exec (.captureAck p) s = .next (settle s
      (giveAnswer p a ⟨[], e⟩ a.addr a.locked (settle s
        { s with
          ports :=
            ⟨if v.getLsbD 0 = true then captureEmptied s.ports.first else s.ports.first,
              if v.getLsbD 1 = true then captureEmptied s.ports.second else s.ports.second⟩
          memCapture := if v.getLsbD 2 = true then ⟨none, 0⟩ else s.memCapture })))))
  ∧ (∀ (s : State) (l : Port) (v : Word) (n : Fin 9),
    (ackGlobal l v s).globalStage l n =
      if v.getLsbD n.val = true ∧ ¬ (n = 6 ∧ ∃ b, (s.bank b).service = .fenced) then .clear
      else s.globalStage l n)
  ∧ (∀ (s : State) (v : Word) (c : ChanId) (ch : Channel) (n : Fin 7), v.toNat % 256 = c.val → s.chan c = some ch →
    (ackChannel v s).channelStage c n =
      if v.getLsbD (8 + n.val) = true ∧ ¬ (n = 1 ∧ ch.state = .stale) then .clear else s.channelStage c n)
  ∧ (∀ (s : State) (v : Word) (c : ChanId), v.toNat % 256 = c.val → s.chan c = none → ackChannel v s = s)
  ∧ (∀ (s : State) (v : Word), 16 ≤ v.toNat % 256 → ackChannel v s = s)
  ∧ (∀ (s : State) (l : Port) (v : Word),
    ackGlobal l v s =
      { s with
        globalFlags := (ackGlobal l v s).globalFlags
        mirror := { s.mirror with request := (ackGlobal l v s).mirror.request } }
    ∧ (∀ n, (ackGlobal l v s).globalStage (otherPort l) n = s.globalStage (otherPort l) n)
    ∧ ((∀ w, s.mirror.request ≠ .inFlight w) → (ackGlobal l v s).mirror.request = s.mirror.request)
    ∧ (∀ w, s.mirror.request = .inFlight w →
      (w.off ≠ 14 + portNat l → (ackGlobal l v s).mirror.request = .inFlight w)
      ∧ (w.off = 14 + portNat l →
        ∃ kept, (ackGlobal l v s).mirror.request = .inFlight { w with carried := kept }
          ∧ ∀ n : Fin 9, n.val ∈ kept ↔ n.val ∈ w.carried
              ∧ ¬ (v.getLsbD n.val = true ∧ ¬ (n = 6 ∧ ∃ b, (s.bank b).service = .fenced)))))
  ∧ (∀ (s : State) (v : Word),
    ackChannel v s =
      { s with
        channelFlags := (ackChannel v s).channelFlags
        mirror := { s.mirror with request := (ackChannel v s).mirror.request } }
    ∧ (∀ (d : ChanId) n, v.toNat % 256 ≠ d.val → (ackChannel v s).channelStage d n = s.channelStage d n)
    ∧ ((∀ w, s.mirror.request ≠ .inFlight w) → (ackChannel v s).mirror.request = s.mirror.request)
    ∧ (∀ w (c : ChanId) ch, s.mirror.request = .inFlight w → v.toNat % 256 = c.val → s.chan c = some ch →
      (w.off ≠ 16 + c.val → (ackChannel v s).mirror.request = .inFlight w)
      ∧ (w.off = 16 + c.val →
        ∃ kept, (ackChannel v s).mirror.request = .inFlight { w with carried := kept }
          ∧ ∀ n : Fin 7, n.val ∈ kept ↔ n.val ∈ w.carried
              ∧ ¬ (v.getLsbD (8 + n.val) = true ∧ ¬ (n = 1 ∧ ch.state = .stale)))))
  ∧ (∀ (s : State) (w : MirrorWrite), s.mirror.request = .inFlight w →
    (∀ l f, w.off = 14 + portNat l →
      ∃ kept, (clearGlobal l f.bit s).mirror.request = .inFlight { w with carried := kept }
        ∧ (postFlags w.off kept (raiseGlobal l f (clearGlobal l f.bit s))).globalStage l f.bit = .pending)
    ∧ (∀ (c : ChanId) f, w.off = 16 + c.val →
      ∃ kept, (clearChannelFlag c f.bit s).mirror.request = .inFlight { w with carried := kept }
        ∧ (postFlags w.off kept (raiseChannel c f (clearChannelFlag c f.bit s))).channelStage c f.bit = .pending))

/-! ## Scrubber -/

/-- The scrubber after the position has been moved by a departure (R141). -/
def scrubMoved (x : Scrubber) (next : Option Nat) : Scrubber :=
  match x.state, next with
  | .stopped, _ => { x with position := next }
  | .running .reading, _ => { x with position := next }
  | .running .noBank, _ => { x with position := next }
  | .running .pacing, some _ => { x with position := next }
  | .running .pacing, none => { x with position := next, state := .running .noBank, timer := .stopped }
  | .running .requesting, some _ =>
    { x with position := next, state := .running .pacing, timer := startTimer x.interval.toNat }
  | .running .requesting, none => { x with position := next, state := .running .noBank, timer := .stopped }

/-- The pace timer's expiry puts the read of the word at the position. A read ends with what the check unit does with
the word of its class: a corrected one written back and counted, an uncorrectable one poisoned, counted and offered, a
poisoned one passed by. Then the position advances, if it still names the word read: by a word, after the last word of
a bank to the next eligible bank above, or around by a wrap. Then the scrubber paces again, requests at once at
interval 0, has NO_BANK without a position, or stops when a SCRUB_STOP waits for that read. SCRUB_START and
SCRUB_STOP: REQUESTING at once or NO_BANK; stopped at once, or EXECUTING until the read in flight has ended;
WRONG_STATE where there is nothing to start or stop. A departure of the bank the position lies in moves it to the next
eligible bank, around by a wrap, or to none; any other departure changes nothing; a bank's return gives a position to
a scrubber that has none. A read that timed out advances like any other. -/
def Obligations.Scrubber : Prop :=
  (∀ s : State, s.pinAsserted = false → s.scrub.state = .running .pacing → s.scrub.timer = .due →
    exec .scrubIntervalExpiry s = .next (settle s
      { s with scrub := { s.scrub with state := .running .requesting, timer := .stopped } }))
  ∧ (∀ (s : State) (b : BankId) (addr n : Nat), s.operating →
    s.arbiter.busy = some ⟨.scrub b addr, n⟩ → s.isProtected b = true → s.classAt addr = .clean →
    s.scrub.state = .running .reading → s.scrub.position = some addr → (s.bank b).lastWord addr = false →
    (stopWaiting s = none → s.scrub.interval ≠ 0 →
      exec .scrubReadEnd s = .next (settle s
        { s.setBusy none with
          scrub := { s.scrub with
            position := some (addr + 4), state := .running .pacing
            timer := .running s.scrub.interval.toNat } }))
    ∧ (stopWaiting s = none → s.scrub.interval = 0 →
      exec .scrubReadEnd s = .next (settle s
        { s.setBusy none with
          scrub := { s.scrub with
            position := some (addr + 4), state := .running .requesting, timer := .stopped } }))
    ∧ (∀ p, stopWaiting s = some p →
      exec .scrubReadEnd s = .next (settle s (endCommand p .done
        { s.setBusy none with
          scrub := { s.scrub with position := some (addr + 4), state := .stopped, timer := .stopped } }))))
  ∧ (∀ (s : State) (b : BankId) (addr : Nat), s.operating → s.arbiter.busy = none → s.scrub.timedOut = some addr →
    s.bankOf addr = some b → s.scrub.state = .running .reading → s.scrub.position = some addr →
    (s.bank b).lastWord addr = false → stopWaiting s = none → s.scrub.interval ≠ 0 →
    exec .scrubReadEnd s = .next (settle s
      { s with
        scrub := { s.scrub with
          position := some (addr + 4), state := .running .pacing
          timer := .running s.scrub.interval.toNat, timedOut := none } }))
  ∧ (∀ (s : State) (b : BankId) (addr n : Nat), s.operating → s.arbiter.busy = some ⟨.scrub b addr, n⟩ →
    (s.isProtected b = false ∨ s.classAt addr = .clean ∨ s.classAt addr = .poisoned →
      exec .scrubReadEnd s = .next (settle s (scrubResume (scrubAdvance b addr (s.setBusy none)))))
    ∧ (∀ v, s.isProtected b = true → s.classAt addr = .corrected v →
      exec .scrubReadEnd s = .next (settle s
        (scrubResume (scrubAdvance b addr (countCorrected (storeWord b addr v (s.setBusy none)))))))
    ∧ (s.isProtected b = true → s.classAt addr = .uncorrectable →
      exec .scrubReadEnd s = .next (settle s
        (scrubResume (scrubAdvance b addr
          (countUncorrectable .scrub b addr (storePoison addr (wordRead s.ram addr) (s.setBusy none))))))))
  ∧ (∀ (s : State) (b : BankId) (addr : Nat),
    (s.scrub.position ≠ some addr → scrubAdvance b addr s = s)
    ∧ (s.scrub.position = some addr →
      ((s.bank b).lastWord addr = false →
        scrubAdvance b addr s = { s with scrub := { s.scrub with position := some (addr + 4) } })
      ∧ ((s.bank b).lastWord addr = true →
        (∀ a, s.eligibleFrom (addr + 4) = some a →
          scrubAdvance b addr s = { s with scrub := { s.scrub with position := some a } })
        ∧ (∀ a, s.eligibleFrom (addr + 4) = none → s.eligibleFrom 0 = some a →
          scrubAdvance b addr s = raiseBoth .scrubPass
            { s with scrub := { s.scrub with position := some a, passes := satInc s.scrub.passes } })
        ∧ (s.eligibleFrom (addr + 4) = none → s.eligibleFrom 0 = none →
          scrubAdvance b addr s = { s with scrub := { s.scrub with position := none } }))))
  ∧ (∀ s : State,
    (s.scrub.state ≠ .running .reading → scrubResume s = s)
    ∧ (s.scrub.state = .running .reading →
      (∀ p, stopWaiting s = some p →
        scrubResume s = endCommand p .done { s with scrub := { s.scrub with state := .stopped, timer := .stopped } })
      ∧ (stopWaiting s = none → s.scrub.position = none →
        scrubResume s = { s with scrub := { s.scrub with state := .running .noBank, timer := .stopped } })
      ∧ (stopWaiting s = none → s.scrub.position ≠ none → s.scrub.interval = 0 →
        scrubResume s = { s with scrub := { s.scrub with state := .running .requesting, timer := .stopped } })
      ∧ (stopWaiting s = none → s.scrub.position ≠ none → s.scrub.interval ≠ 0 →
        scrubResume s = { s with scrub := { s.scrub with
          state := .running .pacing, timer := .running s.scrub.interval.toNat } })))
  ∧ (∀ (s : State) (b : BankId) (addr : Nat),
    ((s.bank b).lastWord addr = true ↔ ∃ cfg, (s.bank b).config = some cfg ∧ addr + 4 = cfg.base + cfg.size)
    ∧ (s.eligible b = true ↔
      ∃ cfg, (s.bank b).config = some cfg ∧ cfg.checkCode = true ∧ (s.bank b).service = .inService)
    ∧ (∀ cfg, (s.bank b).config = some cfg → s.bankBase b = cfg.base)
    ∧ (s.eligibleFrom addr = none ↔ ∀ d, s.eligible d = true → s.bankBase d < addr)
    ∧ (∀ a, s.eligibleFrom addr = some a ↔
      addr ≤ a ∧ (∃ d, s.eligible d = true ∧ s.bankBase d = a)
        ∧ ∀ d, s.eligible d = true → addr ≤ s.bankBase d → a ≤ s.bankBase d))
  ∧ (∀ (s : State) (b : BankId),
    (s.scrubIn b = false → scrubDeparture b s = s)
    ∧ (s.scrubIn b = true →
      (∀ a, s.eligibleFrom (s.bankBase b) = some a →
        scrubDeparture b s = { s with scrub := scrubMoved s.scrub (some a) })
      ∧ (∀ a, s.eligibleFrom (s.bankBase b) = none → s.eligibleFrom 0 = some a →
        scrubDeparture b s = raiseBoth .scrubPass
          { s with scrub := { scrubMoved s.scrub (some a) with passes := satInc s.scrub.passes } })
      ∧ (s.eligibleFrom (s.bankBase b) = none → s.eligibleFrom 0 = none →
        scrubDeparture b s = { s with scrub := scrubMoved s.scrub none })))
  ∧ (∀ (s : State) (b : BankId),
    (s.scrub.position ≠ none → scrubReturn b s = s)
    ∧ (s.scrub.position = none →
      (s.scrub.state ≠ .running .noBank →
        scrubReturn b s = { s with scrub := { s.scrub with position := some (s.bankBase b) } })
      ∧ (s.scrub.state = .running .noBank → s.scrub.interval ≠ 0 →
        scrubReturn b s = { s with scrub := { s.scrub with
          position := some (s.bankBase b), state := .running .pacing
          timer := .running s.scrub.interval.toNat } })
      ∧ (s.scrub.state = .running .noBank → s.scrub.interval = 0 →
        scrubReturn b s = { s with scrub := { s.scrub with
          position := some (s.bankBase b), state := .running .requesting, timer := .stopped } })))
  ∧ (∀ (s : State) (b : BankId) (f : BankId → State → State),
    scrubberTakes b f s = if s.isProtected b = true then f b s else s)
  ∧ (∀ (s : State) (p : Port) (w : Word), s.takes p w →
     (commandCode w = 0x0B →
       (s.scrub.state = .stopped →
         exec .scrubStart s = .next (settle s (endCommand p .done
           { s.setCommand p { s.command p with state := .executing w } with
             scrub := { s.scrub with
               state := .running (if s.scrub.position = none then .noBank else .requesting), timer := .stopped } })))
       ∧ (s.scrub.state ≠ .stopped →
         exec .scrubStart s = .next (settle s
           (endCommand p .wrongState (s.setCommand p { s.command p with state := .executing w })))))
     ∧ (commandCode w = 0x0C →
       (s.scrub.state = .stopped →
         exec .scrubStop s = .next (settle s
           (endCommand p .wrongState (s.setCommand p { s.command p with state := .executing w }))))
       ∧ (s.scrub.state = .running .reading →
         exec .scrubStop s = .next (settle s (s.setCommand p { s.command p with state := .executing w })))
       ∧ (s.scrub.state ≠ .stopped → s.scrub.state ≠ .running .reading →
         exec .scrubStop s = .next (settle s (endCommand p .done
           { s.setCommand p { s.command p with state := .executing w } with
             scrub := { s.scrub with state := .stopped, timer := .stopped } })))))

/-! ## Bank health -/

/-- A TIMEOUT report of a bank in service takes it to FENCED in mode OFF and to RETRY_WAIT otherwise; of a bank out of
service it is no fault. A STORM fences a bank in service whatever its mode. What a departure does outside the bank's
record: a waiting operation of the bank is answered UNAVAILABLE, a BCB write handed over all the same, and the end of
a commit's write lets a kept-back read go; a waiting copy operation fails its copy, or leaves a draining engine IDLE;
the mirror writer's waiting request is withdrawn, its offset in the set, and no flag is posted; the channels whose
slot area lies in the bank are sent a leaving notice and no other is, and an operation that holds the memory port is
left to run. -/
def Obligations.FaultsTakeBankOut : Prop :=
  (∀ (s : State) (b : BankId) (cfg : BankConfig), s.pinAsserted = false → (s.bank b).config = some cfg →
     (s.timeoutReports.contains b = true → (s.bank b).service = .inService → cfg.retryMode = .off →
       exec (.timeoutReport b) s = .next (settle s
         (raiseBoth .bankFenced (departureEffects b
           (({ s with timeoutReports := s.timeoutReports.erase b } : State).setBank b
             { s.bank b with
               service := .fenced, cause := .timeout, faultTime := some s.msCount, retryTimer := .stopped })))))
     ∧ (s.timeoutReports.contains b = true → (s.bank b).service = .inService → cfg.retryMode ≠ .off →
         cfg.retryPeriod ≠ 0 →
       exec (.timeoutReport b) s = .next (settle s
         (raiseBoth .bankRetry (departureEffects b
           (({ s with timeoutReports := s.timeoutReports.erase b } : State).setBank b
             { s.bank b with
               service := .retryWait, cause := .timeout, faultTime := some s.msCount
               retryTimer := .running cfg.retryPeriod })))))
     ∧ (s.timeoutReports.contains b = true → (s.bank b).service ≠ .inService →
       exec (.timeoutReport b) s = .next (settle s { s with timeoutReports := s.timeoutReports.erase b }))
     ∧ (s.stormReports.contains b = true → (s.bank b).service = .inService →
       exec (.storm b) s = .next (settle s
         (raiseBoth .bankFenced (departureEffects b
           (({ s with stormReports := s.stormReports.erase b } : State).setBank b
             { s.bank b with
               service := .fenced, cause := .storm, faultTime := some s.msCount, retryTimer := .stopped }))))))
  ∧ (∀ (s : State) (b : BankId),
     (∀ c ch, s.chan c = some ch →
       ∃ ch', (departureEffects b s).chan c = some ch'
         ∧ ch' = { ch with notices := if (s.bank b).covers ch.config.slotBase then ch.notices ++ [.leaving] else ch.notices })
     ∧ (departureEffects b s).arbiter.busy = s.arbiter.busy
     ∧ (departureEffects b s).ram = s.ram ∧ (departureEffects b s).lanes = s.lanes
     ∧ (∀ p a op, (s.port p).phase = .granted a op → ((departureEffects b s).port p).phase = .granted a op)
     ∧ (∀ p a op, (s.port p).phase = .atArbiter a op → op.bank = b → op.tag = .plain →
         ((departureEffects b s).port p).phase = .idle
         ∧ ((departureEffects b s).port p).answer = some ⟨[], some .unavailable⟩)
     ∧ (∀ p a op, (s.port p).phase = .atArbiter a op → op.bank ≠ b →
         ((departureEffects b s).port p).phase = .atArbiter a op)
     ∧ (∀ p a op, (s.port p).phase = .atArbiter a op → op.bank = b → (∃ x, op.tag = .lockedRead x) →
         ((departureEffects b s).port p).phase = .idle
         ∧ ((departureEffects b s).port p).answer = some ⟨[], some .unavailable⟩)
     ∧ (∀ p a op off, (s.port p).phase = .atArbiter a op → op.bank = b → op.tag = .bcb off → off ≠ 2 + portNat p →
         ((departureEffects b s).port p).phase = .handover a off (beatData a 0) (some .unavailable))
     ∧ (∀ p a op, (s.port p).phase = .atArbiter a op → op.bank = b → op.tag = .bcb (2 + portNat p) →
         ((departureEffects b s).port p).phase = .idle
         ∧ ((departureEffects b s).port p).answer = some ⟨[], some .unavailable⟩
         ∧ (s.device ≠ .loading → (s.command p).state = .idle →
           ∃ n, (departureEffects b s).command p = ⟨.pending (beatData a 0) n, beatData a 0, .pending, none⟩)
         ∧ ((s.command p).state ≠ .idle →
           (departureEffects b s).command p
             = { s.command p with refused := some (BitVec.ofNat 8 (commandCode (beatData a 0))) }))
     ∧ (∀ p a op c i, (s.port p).phase = .atArbiter a op → op.bank = b → op.tag = .commitWord c i →
         ((departureEffects b s).port p).phase = .idle
         ∧ ((departureEffects b s).port p).answer = some ⟨[], some .unavailable⟩
         ∧ (∀ a' o', s.inService b = false → (s.port (otherPort p)).phase = .keptBack a' o' c i → o'.tag = .plain →
           (s.inService o'.bank = true →
             ((departureEffects b s).port (otherPort p)).phase = .atArbiter a' o')
           ∧ (s.inService o'.bank = false →
             ((departureEffects b s).port (otherPort p)).phase = .idle
             ∧ ((departureEffects b s).port (otherPort p)).answer = some ⟨[], some .unavailable⟩))))
  ∧ (∀ (s : State) (b : BankId),
     (∀ j, s.copy.state = .active j → j.flight = .readWaiting ∨ j.flight = .writeWaiting → j.bank = b →
       (departureEffects b s).copy = ⟨s.copy.queue, .ending { j with flight := .none } .failure, s.copy.abortNotice⟩
       ∧ (departureEffects b s).arbiter.copyPass = 0)
     ∧ (∀ j, s.copy.state = .draining j → j.flight = .readWaiting ∨ j.flight = .writeWaiting → j.bank = b →
       (departureEffects b s).copy = ⟨s.copy.queue, .idle, false⟩ ∧ (departureEffects b s).arbiter.copyPass = 0)
     ∧ ((∀ j, s.copy.state.job = some j → j.bank ≠ b ∨ (j.flight ≠ .readWaiting ∧ j.flight ≠ .writeWaiting)) →
       (departureEffects b s).copy = s.copy ∧ (departureEffects b s).arbiter.copyPass = s.arbiter.copyPass)
     ∧ (∀ off, s.mirror.request = .waiting off → s.bcbBank = some b →
       (departureEffects b s).mirror.request = .none ∧ off ∈ (departureEffects b s).mirror.dirty
       ∧ (departureEffects b s).mirror.last = s.mirror.last ∧ (departureEffects b s).arbiter.mirrorPass = 0)
     ∧ ((∀ off, s.mirror.request ≠ .waiting off) ∨ s.bcbBank ≠ some b →
       (departureEffects b s).mirror.request = s.mirror.request
       ∧ (departureEffects b s).arbiter.mirrorPass = s.arbiter.mirrorPass)
     ∧ (∀ off ∈ s.mirror.dirty, off ∈ (departureEffects b s).mirror.dirty)
     ∧ (∀ l n, (departureEffects b s).globalStage l n = .posted ↔ s.globalStage l n = .posted)
     ∧ (∀ c n, (departureEffects b s).channelStage c n = s.channelStage c n))

/-- The retry timer's expiry makes the bank PROBING with its probe waiting; a completed probe, whatever its word's
class, brings it back with a UE count of 0 after the check unit has taken its outcome; a discarded probe's end leaves
the probe none; a failed one is counted and retried, or fences the bank after the last chance. -/
def Obligations.RetryAndProbe : Prop :=
  (∀ (s : State) (b : BankId), s.pinAsserted = false → (s.bank b).service = .retryWait →
    (s.bank b).retryTimer = .due →
    exec (.retryTimerExpiry b) s = .next (settle s
      (s.setBank b { s.bank b with service := .probing, retryTimer := .stopped, probe := .waiting })))
  ∧ (∀ (s u : State) (b : BankId) (addr n : Nat), s.pinAsserted = false →
    s.arbiter.busy = some ⟨.probe b addr, n⟩ →
    u = settle s (readAccess .probe b addr none (s.setBusy none)).2.2 →
    ((s.bank b).service = .probing → (s.bank b).probe = .inFlight →
      exec (.probeEnd b) s = .next (settle s
        (notifyChannels b .entering
          (scrubberTakes b scrubReturn
            (u.setBank b
              { s.bank b with service := .inService, retryTimer := .stopped, probe := .none, ueCount := 0 })))))
    ∧ ((s.bank b).probe = .discarded →
      exec (.probeEnd b) s = .next (settle s (u.setBank b { u.bank b with probe := .none }))))
  ∧ (∀ (s : State) (b : BankId) (cfg : BankConfig), s.pinAsserted = false → s.arbiter.busy = none →
    (s.bank b).config = some cfg → (s.bank b).service = .probing → (s.bank b).probe = .timedOut →
    cfg.retryPeriod ≠ 0 →
    (cfg.retryMode = .limited → (s.bank b).rfull = false →
      exec (.probeEnd b) s = .next (settle s (raiseBoth .bankRetry (s.setBank b
        { s.bank b with
          service := .retryWait, probe := .none, retryTimer := .running cfg.retryPeriod
          retries := bumpRetries (s.bank b).retries
          rfull := (bumpRetries (s.bank b).retries).val == 15 }))))
    ∧ (cfg.retryMode = .unlimited →
      exec (.probeEnd b) s = .next (settle s (raiseBoth .bankRetry (s.setBank b
        { s.bank b with
          service := .retryWait, probe := .none, retryTimer := .running cfg.retryPeriod
          retries := bumpRetries (s.bank b).retries }))))
    ∧ (cfg.retryMode = .off ∨ (cfg.retryMode = .limited ∧ (s.bank b).rfull = true) →
      exec (.probeEnd b) s = .next (settle s (raiseBoth .bankFenced (s.setBank b
        { s.bank b with
          service := .fenced, probe := .none, cause := .timeout, faultTime := some s.msCount
          retryTimer := .stopped })))))
  ∧ (∀ n : Fin 16, (bumpRetries n).val = min (n.val + 1) 15)

/-! ## The command executor -/

/-- The commands with a channel number as argument a, and those with a bank number, by their codes. -/
def channelCommands : List (Nat × Instr) :=
  [(0x01, .channelEnable), (0x02, .channelDisable), (0x03, .channelReset), (0x04, .channelLoad),
    (0x05, .channelUnload), (0x06, .slotRetire), (0x07, .slotRestore)]

def bankCommands : List (Nat × Instr) :=
  [(0x08, .bankReinstate), (0x09, .bankClearRetries), (0x0A, .bankFence)]

/-- All the commands of the executor, by their codes. -/
def executorCommands : List (Nat × Instr) :=
  channelCommands ++ bankCommands
    ++ [(0x0B, .scrubStart), (0x0C, .scrubStop), (0x0D, .countersClear), (0x0E, .timeZero), (0x0F, .reload)]

/-- The end of a command: its outcome in the result word, which is marked, CMD_DONE on its port's line, its state
IDLE. The executor takes the command accepted earliest, and none while one is EXECUTING or during LOADING; an unlisted
code or an argument a out of range ends with BAD_ARGUMENT and consults no owner. A command is taken by the step of its
own code only (log 2). -/
def Obligations.CommandExecution : Prop :=
  (∀ (s : State) (p : Port) (o : CommandOutcome),
     endCommand p o s = raiseGlobal p .cmdDone (markDirty (4 + portNat p)
       (s.setCommand p { s.command p with state := .idle, outcome := o })))
  ∧ (∀ (s : State) (w v : Word) (n m : Nat), s.commands.first.state = .pending w n →
    s.commands.second.state = .pending v m →
    (n < m → oldestPending s = some (.port0, w)) ∧ (m < n → oldestPending s = some (.port1, v)))
  ∧ (∀ (s : State) (p : Port) (w : Word), s.takes p w →
    (commandCode w = 0 ∨ 0x0F < commandCode w →
      exec .unlistedCommandCode s = .next (settle s
        (endCommand p .badArgument (s.setCommand p { s.command p with state := .executing w }))))
    ∧ (∀ x ∈ channelCommands, commandCode w = x.1 → 16 ≤ commandArgA w →
      exec x.2 s = .next (settle s
        (endCommand p .badArgument (s.setCommand p { s.command p with state := .executing w }))))
    ∧ (∀ x ∈ bankCommands, commandCode w = x.1 → 4 ≤ commandArgA w →
      exec x.2 s = .next (settle s
        (endCommand p .badArgument (s.setCommand p { s.command p with state := .executing w }))))
    ∧ (∀ x ∈ executorCommands, commandCode w ≠ x.1 → exec x.2 s = .next s))
  ∧ (∀ s : State, s.device = .loading ∨ executorBusy s = true →
    exec .unlistedCommandCode s = .next s ∧ ∀ x ∈ executorCommands, exec x.2 s = .next s)

/-- A slot record made FREE, its retired flag kept. -/
def freedRecord (x : Slot) : Slot :=
  { x with state := .free, frame := none, commitTime := none, written := [], copySource := false }

/-- A channel as a disable leaves it. -/
def offRecord (ch : Channel) : Channel :=
  { ch with
    state := .off, newest := none, committed := [], held := .none, filling := none, copy := .none
    waiting := none, deadline := .stopped, slots := ch.slots.map freedRecord }

/-- A channel as an enable from OFF leaves it, with its bank's service state at that moment (the notices sent before
are answered by it, log 11). -/
def liveRecord (ch : Channel) (up : Bool) : Channel :=
  { offRecord ch with
    state := .live, frames := 0, bankUp := up, notices := []
    deadline := if ch.config.freshness = 0 then .stopped else .running ch.config.freshness }

/-- CHANNEL_ENABLE of an OFF channel, CHANNEL_DISABLE and CHANNEL_RESET of a LIVE or STALE one; in any other state
WRONG_STATE and nothing changes. A disable, alone or as the first half of a reset, aborts the copy, QUEUED or COPYING,
and answers a waiting commit CHANNEL_OFF. -/
def Obligations.EnableDisableReset : Prop :=
  (∀ (s : State) (p : Port) (w : Word) (c : ChanId), s.takes p w → commandArgA w = c.val →
     (∀ ch, commandCode w = 0x01 → s.chan c = some ch → ch.state = .off →
       exec .channelEnable s = .next (settle s (endCommand p .done
         ((s.setCommand p { s.command p with state := .executing w }).setChan c
           (some (liveRecord ch (s.slotBankUp ch.config)))))))
     ∧ (commandCode w = 0x01 → (s.chan c = none ∨ ∃ ch, s.chan c = some ch ∧ ch.state ≠ .off) →
       exec .channelEnable s = .next (settle s (endCommand p .wrongState
         (s.setCommand p { s.command p with state := .executing w }))))
     ∧ (∀ ch, commandCode w = 0x02 → s.chan c = some ch → ch.state ≠ .off →
       exec .channelDisable s = .next (settle s (endCommand p .done
         (answerWaiting ch.config.writer c .channelOff
           (abortAtEngine c ch.copy
             ((s.setCommand p { s.command p with state := .executing w }).setChan c (some (offRecord ch))))))))
     ∧ (commandCode w = 0x02 ∨ commandCode w = 0x03 →
         (s.chan c = none ∨ ∃ ch, s.chan c = some ch ∧ ch.state = .off) →
       exec (if commandCode w = 0x02 then .channelDisable else .channelReset) s = .next (settle s
         (endCommand p .wrongState (s.setCommand p { s.command p with state := .executing w }))))
     ∧ (∀ ch, commandCode w = 0x03 → s.chan c = some ch → ch.state ≠ .off →
       ∃ t : State,
         t = answerWaiting ch.config.writer c .channelOff
           (abortAtEngine c ch.copy
             ((s.setCommand p { s.command p with state := .executing w }).setChan c (some (offRecord ch))))
         ∧ exec .channelReset s = .next (settle s (endCommand p .done
           (clearChannelFlags c (t.setChan c
             (some { liveRecord ch (s.slotBankUp ch.config) with
               dropped := 0, lost := 0, blocked := 0, empty := 0, lastCommit := none })))))))
  ∧ (∀ (s : State) (c : ChanId) (ch : Channel) (a : Access), s.chan c = some ch →
     (s.port ch.config.writer).phase = .waitingCommit a c →
     (ch.copy = .queued →
       disableAt c ch s = answerFault ch.config.writer a .channelOff
         { s.setChan c (some (offRecord ch)) with copy := { s.copy with queue := s.copy.queue.erase c } })
     ∧ (∀ n, ch.copy = .copying n →
       disableAt c ch s = answerFault ch.config.writer a .channelOff
         { s.setChan c (some (offRecord ch)) with copy := { s.copy with abortNotice := true } }))

/-- CHANNEL_LOAD checks the issuing port's staging entry, as it stands, and makes the entry OFF with fresh run-time
state: counters 0, nothing held or committed, its slots FREE and not retired; an entry that is LIVE or STALE is
WRONG_STATE, a failed check BAD_ARGUMENT with the entry unchanged. The checks are made among the configured banks, the
BCB and the configured entries of the other channels. -/
def Obligations.LoadChannel : Prop :=
  (∀ (s : State) (p : Port) (w : Word) (c : ChanId), s.takes p w → commandCode w = 0x04 →
    commandArgA w = c.val →
    (rotating (s.chan c) = true →
      exec .channelLoad s = .next (settle s (endCommand p .wrongState
        (s.setCommand p { s.command p with state := .executing w }))))
    ∧ (rotating (s.chan c) = false →
        ((stagingEntry p s).listed && (stagingEntry p s).config.accepted (s.surroundings c)) = false →
      exec .channelLoad s = .next (settle s (endCommand p .badArgument
        (s.setCommand p { s.command p with state := .executing w }))))
    ∧ (rotating (s.chan c) = false →
        ((stagingEntry p s).listed && (stagingEntry p s).config.accepted (s.surroundings c)) = true →
      ∃ ch : Channel,
        exec .channelLoad s = .next (settle s (endCommand p .done
          (clearChannelFlags c
            ((s.setCommand p { s.command p with state := .executing w }).setChan c (some ch)))))
        ∧ ch.config = (stagingEntry p s).config ∧ ch.state = .off
        ∧ ch.frames = 0 ∧ ch.dropped = 0 ∧ ch.lost = 0 ∧ ch.blocked = 0 ∧ ch.empty = 0
        ∧ ch.newest = none ∧ ch.committed = [] ∧ ch.held = .none ∧ ch.filling = none ∧ ch.copy = .none
        ∧ ch.waiting = none ∧ ch.deadline = .stopped ∧ ch.lastCommit = none ∧ ch.notices = []
        ∧ (∀ i, ch.slot i = ⟨.free, none, none, false, [], false⟩)
        ∧ (ch.bankUp = true ↔
            ∃ b, s.bankOf (stagingEntry p s).config.slotBase = some b ∧ (s.bank b).service = .inService)))
  ∧ (∀ (s : State) (p : Port),
    (stagingEntry p s).w0 = (s.staging.get p).get 0 ∧ (stagingEntry p s).w1 = (s.staging.get p).get 1
    ∧ (stagingEntry p s).w2 = (s.staging.get p).get 2 ∧ (stagingEntry p s).w3 = (s.staging.get p).get 3
    ∧ (stagingEntry p s).w4 = (s.staging.get p).get 4 ∧ (stagingEntry p s).w5 = (s.staging.get p).get 5)
  ∧ (∀ (s : State) (c : ChanId),
    (s.surroundings c).bcb = s.bcbBase
    ∧ (∀ r, r ∈ (s.surroundings c).banks ↔
      ∃ b cfg, (s.bank b).config = some cfg ∧ r = (cfg.base, cfg.size))
    ∧ (∀ cfg, cfg ∈ (s.surroundings c).others ↔ ∃ d ch, d ≠ c ∧ s.chan d = some ch ∧ ch.config = cfg))

/-- CHANNEL_UNLOAD returns an OFF entry to UNCONFIGURED and clears its flags; its whole record is marked (R54); its
window and slot area are not decoded for it any more. Of any other entry it is WRONG_STATE and nothing changes. -/
def Obligations.UnloadChannel : Prop :=
  (∀ (s : State) (p : Port) (w : Word) (c : ChanId), s.takes p w → commandCode w = 0x05 →
    commandArgA w = c.val →
    (∀ ch, s.chan c = some ch → ch.state = .off →
      exec .channelUnload s = .next (settle s (endCommand p .done
        (markAll (List.range' (128 + 16 * c.val) 16 ++ List.range' (384 + 8 * c.val) 8) (clearChannelFlags c
          ((s.setCommand p { s.command p with state := .executing w }).setChan c none))))))
    ∧ ((s.chan c = none ∨ ∃ ch, s.chan c = some ch ∧ ch.state ≠ .off) →
      exec .channelUnload s = .next (settle s (endCommand p .wrongState
        (s.setCommand p { s.command p with state := .executing w })))))
  ∧ (∀ (s : State) (offs : List Nat) (k : Nat),
    k ∈ (markAll offs s).mirror.dirty ↔ k ∈ offs ∨ k ∈ s.mirror.dirty)
  ∧ (∀ (s : State) (c : ChanId) (n : Fin 7), (clearChannelFlags c s).channelStage c n = .clear)
  ∧ (∀ (s : State) (c : ChanId) (addr : Nat), (s.setChan c none).windowOf addr ≠ some c)
  ∧ (∀ (s : State) (c : ChanId) (addr : Nat),
      (∀ d ch, d ≠ c → s.chan d = some ch → ch.config.inSlotArea addr = false) →
      (s.setChan c none).inSlotArea addr = false)

/-- Whether the filling is abandoned when slot `i` leaves use: it is the filling slot, or the source of its copy. -/
def retireAbandons (ch : Channel) (i : Fin 8) : Bool :=
  match ch.filling with
  | some t => t == i || (ch.copy != .none && (ch.slot i).copySource)
  | none => false

/-- Whether slot `i` holds a frame that is lost when it leaves use: COMMITTED and not held. -/
def retireLoses (ch : Channel) (i : Fin 8) : Bool :=
  (ch.slot i).state == .committed && !ch.holds i

/-- A slot record after slot `i` has left use by SLOT_RETIRE: the slot itself is retired, FREE when it lost its frame
or was the filling; a filling abandoned is FREE, and its copy's source mark is gone. -/
def retiredRecord (ch : Channel) (i k : Fin 8) : Slot :=
  { (ch.slot k) with
    state := if (k = i ∧ retireLoses ch i = true) ∨ (ch.filling = some k ∧ retireAbandons ch i = true) then .free
      else (ch.slot k).state
    frame := if (k = i ∧ retireLoses ch i = true) ∨ (ch.filling = some k ∧ retireAbandons ch i = true) then none
      else (ch.slot k).frame
    commitTime := if (k = i ∧ retireLoses ch i = true) ∨ (ch.filling = some k ∧ retireAbandons ch i = true) then none
      else (ch.slot k).commitTime
    written := if (k = i ∧ retireLoses ch i = true) ∨ (ch.filling = some k ∧ retireAbandons ch i = true) then []
      else (ch.slot k).written
    retired := if k = i then true else (ch.slot k).retired
    copySource := if retireAbandons ch i = true then false else (ch.slot k).copySource }

/-- SLOT_RETIRE and SLOT_RESTORE, in the order of their checks. A slot retired in an OFF channel, or out of validity
already, changes its flag only. A valid slot of a LIVE or STALE channel leaves use: a filling slot, or the source of
its copy, has the filling abandoned, with its copy and its waiting commit; a frame not held is lost, a held one stays.
A restored slot is valid again with its bank. -/
def Obligations.RetireAndRestore : Prop :=
  (∀ (s : State) (p : Port) (w : Word) (c : ChanId), s.takes p w → commandArgA w = c.val →
    (commandCode w = 0x06 ∨ commandCode w = 0x07 → s.chan c = none →
      exec (if commandCode w = 0x06 then .slotRetire else .slotRestore) s = .next (settle s
        (endCommand p .wrongState (s.setCommand p { s.command p with state := .executing w }))))
    ∧ (∀ ch, s.chan c = some ch → ch.config.depth ≤ commandArgB w →
        commandCode w = 0x06 ∨ commandCode w = 0x07 →
      exec (if commandCode w = 0x06 then .slotRetire else .slotRestore) s = .next (settle s
        (endCommand p .badArgument (s.setCommand p { s.command p with state := .executing w }))))
    ∧ (∀ ch (i : Fin 8), s.chan c = some ch → commandArgB w = i.val → i.val < ch.config.depth →
      (commandCode w = 0x06 → (ch.slot i).retired = true →
        exec .slotRetire s = .next (settle s
          (endCommand p .wrongState (s.setCommand p { s.command p with state := .executing w }))))
      ∧ (commandCode w = 0x06 → (ch.slot i).retired = false → ch.state = .off ∨ ch.bankUp = false →
        exec .slotRetire s = .next (settle s (endCommand p .done
          ((s.setCommand p { s.command p with state := .executing w }).setChan c
            (some (ch.setSlot i { ch.slot i with retired := true }))))))
      ∧ (commandCode w = 0x06 → (ch.slot i).retired = false → ch.state ≠ .off → ch.bankUp = true →
          (∀ t, ch.filling = some t → (ch.slot t).state = .filling) →
        ∃ (ch' : Channel) (t : State),
          t = (if retireAbandons ch i = true then
              raiseChannel c .abandoned (answerWaiting ch.config.writer c .abandoned
                (abortAtEngine c ch.copy
                  ((s.setCommand p { s.command p with state := .executing w }).setChan c (some ch'))))
            else (s.setCommand p { s.command p with state := .executing w }).setChan c (some ch'))
          ∧ exec .slotRetire s = .next (settle s (endCommand p .done
            (if retireLoses ch i = true then raiseChannel c .lost t else t)))
          ∧ (∀ k, ch'.slot k = retiredRecord ch i k)
          ∧ ch'.filling = (if retireAbandons ch i = true then none else ch.filling)
          ∧ ch'.copy = (if retireAbandons ch i = true then .none else ch.copy)
          ∧ ch'.waiting = (if retireAbandons ch i = true then none else ch.waiting)
          ∧ ch'.newest =
              (if retireLoses ch i = true ∧ ch.newest = some i then ch.heldCommitted else ch.newest)
          ∧ ch'.committed =
              (if retireLoses ch i = true then ch.committed.filter (fun x => x != i) else ch.committed)
          ∧ ch'.lost = (if retireLoses ch i = true then satInc ch.lost else ch.lost)
          ∧ ch'.held = ch.held ∧ ch'.frames = ch.frames ∧ ch'.state = ch.state ∧ ch'.config = ch.config)
      ∧ (commandCode w = 0x07 → (ch.slot i).retired = false →
        exec .slotRestore s = .next (settle s
          (endCommand p .wrongState (s.setCommand p { s.command p with state := .executing w }))))
      ∧ (commandCode w = 0x07 → (ch.slot i).retired = true →
        exec .slotRestore s = .next (settle s (endCommand p .done
          ((s.setCommand p { s.command p with state := .executing w }).setChan c
            (some (ch.setSlot i { ch.slot i with retired := false }))))))))
  ∧ (∀ (ch : Channel) (i : Fin 8),
    (ch.setSlot i { ch.slot i with retired := false }).valid i = ch.bankUp
    ∧ (ch.setSlot i { ch.slot i with retired := true }).valid i = false)

/-- BANK_REINSTATE moves a FENCED bank to IN_SERVICE without a probe, its counter and RFULL kept, its UE count 0, its
channels told; in any other state it is WRONG_STATE and nothing changes. BANK_CLEAR_RETRIES clears the counter and
RFULL and takes a FENCED bank to RETRY_WAIT; BANK_FENCE fences a bank in any state but FENCED, as a departure from
IN_SERVICE, its counter and RFULL kept; a probe in flight, or timed out and not yet taken, is discarded, and one that
waits stays at the arbiter, to be withdrawn at its grant. An UNUSED bank is WRONG_STATE. -/
def Obligations.BankCommands : Prop :=
  (∀ (s : State) (p : Port) (w : Word) (b : BankId), s.takes p w → commandCode w = 0x08 →
     commandArgA w = b.val →
     ((s.bank b).service = .fenced →
       exec .bankReinstate s = .next (settle s (endCommand p .done
         (notifyChannels b .entering
           (scrubberTakes b scrubReturn
             ((s.setCommand p { s.command p with state := .executing w }).setBank b
               { s.bank b with service := .inService, retryTimer := .stopped, probe := .none, ueCount := 0 }))))))
     ∧ ((s.bank b).service ≠ .fenced →
       exec .bankReinstate s = .next (settle s
         (endCommand p .wrongState (s.setCommand p { s.command p with state := .executing w })))))
  ∧ (∀ (s : State) (p : Port) (w : Word) (b : BankId), s.takes p w → commandArgA w = b.val →
     (commandCode w = 0x09 →
       ((s.bank b).service = .unused →
         exec .bankClearRetries s = .next (settle s
           (endCommand p .wrongState (s.setCommand p { s.command p with state := .executing w }))))
       ∧ ((s.bank b).service ≠ .unused → (s.bank b).service ≠ .fenced →
         exec .bankClearRetries s = .next (settle s (endCommand p .done
           ((s.setCommand p { s.command p with state := .executing w }).setBank b
             { s.bank b with retries := 0, rfull := false }))))
       ∧ (∀ cfg, (s.bank b).service = .fenced → (s.bank b).config = some cfg → cfg.retryPeriod ≠ 0 →
         exec .bankClearRetries s = .next (settle s (endCommand p .done
           (raiseBoth .bankRetry
             ((s.setCommand p { s.command p with state := .executing w }).setBank b
               { s.bank b with
                 retries := 0, rfull := false, service := .retryWait
                 retryTimer := .running cfg.retryPeriod }))))))
     ∧ (commandCode w = 0x0A →
       ((s.bank b).service = .unused ∨ (s.bank b).service = .fenced →
         exec .bankFence s = .next (settle s
           (endCommand p .wrongState (s.setCommand p { s.command p with state := .executing w }))))
       ∧ ((s.bank b).service = .inService →
         exec .bankFence s = .next (settle s (endCommand p .done
           (raiseBoth .bankFenced (departureEffects b
             ((s.setCommand p { s.command p with state := .executing w }).setBank b
               { s.bank b with
                 service := .fenced, cause := .command, faultTime := some s.msCount
                 retryTimer := .stopped }))))))
       ∧ ((s.bank b).service = .retryWait →
         exec .bankFence s = .next (settle s (endCommand p .done
           (raiseBoth .bankFenced
             ((s.setCommand p { s.command p with state := .executing w }).setBank b
               { s.bank b with
                 service := .fenced, cause := .command, faultTime := some s.msCount
                 retryTimer := .stopped })))))
       ∧ ((s.bank b).service = .probing → (s.bank b).probe = .inFlight →
         exec .bankFence s = .next (settle s (endCommand p .done
           (raiseBoth .bankFenced
             ((s.setCommand p { s.command p with state := .executing w }).setBank b
               { s.bank b with
                 service := .fenced, cause := .command, faultTime := some s.msCount
                 retryTimer := .stopped, probe := .discarded })))))
       ∧ ((s.bank b).service = .probing → (s.bank b).probe = .timedOut →
         exec .bankFence s = .next (settle s (endCommand p .done
           (raiseBoth .bankFenced
             ((s.setCommand p { s.command p with state := .executing w }).setBank b
               { s.bank b with
                 service := .fenced, cause := .command, faultTime := some s.msCount
                 retryTimer := .stopped, probe := .discarded })))))
       ∧ ((s.bank b).service = .probing → (s.bank b).probe = .waiting →
         exec .bankFence s = .next (settle s (endCommand p .done
           (raiseBoth .bankFenced
             ((s.setCommand p { s.command p with state := .executing w }).setBank b
               { s.bank b with
                 service := .fenced, cause := .command, faultTime := some s.msCount
                 retryTimer := .stopped, probe := .waiting })))))))

/-- COUNTERS_CLEAR sets every counter of the part to 0 and leaves the capture records, the retry counters and RFULL,
the frame counters, the millisecond count and every flag but CMD_DONE of its own end. -/
def Obligations.CountersCleared : Prop :=
  ∀ (s : State) (p : Port) (w : Word), s.takes p w → commandCode w = 0x0D →
    exec .countersClear s = .next (settle s (endCommand p .done
      { s.setCommand p { s.command p with state := .executing w } with
        ecc := ⟨0, 0, 0⟩
        banks := s.banks.map (fun x => { x with ueCount := 0 })
        ports :=
          ⟨{ s.ports.first with faultCount := 0, capture := ⟨s.ports.first.capture.record, 0⟩ },
            { s.ports.second with faultCount := 0, capture := ⟨s.ports.second.capture.record, 0⟩ }⟩
        channels := s.channels.map (fun e => e.map (fun ch =>
          { ch with dropped := 0, lost := 0, blocked := 0, empty := 0 }))
        scrub := { s.scrub with passes := 0 }
        memCapture := ⟨s.memCapture.record, 0⟩ }))

/-- TIME_ZERO sets the count and the position within the millisecond to 0 and leaves every timer. -/
def Obligations.TimeSetToZero : Prop :=
  ∀ (s : State) (p : Port) (w : Word), s.takes p w → commandCode w = 0x0E →
    exec .timeZero s = .next (settle s (endCommand p .done
      (markDirty 1
        { s.setCommand p { s.command p with state := .executing w } with msCount := 0, usInMs := 0 })))

/-- RELOAD begins LOADING in its own step, cause RELOAD, and stays EXECUTING: accesses not yet granted (at the
arbiter, handed to the exchange engine, a waiting commit, a tag read kept back) are answered UNAVAILABLE, one that
holds the memory port runs on, the hold limits are 10,000 µs, the other port's PENDING command is discarded, an open
lock is closed, the dirty set is emptied, the pass-over counts are 0, the configuration port's read begins. -/
def Obligations.ReloadBeginsLoading : Prop :=
  ∀ (s : State) (p : Port) (w : Word), s.takes p w → commandCode w = 0x0F →
    ∃ t, exec .reload s = .next t
      ∧ t.device = .loading ∧ t.resetCause = .reload ∧ t.loader.phase = .reading
      ∧ t.configSelect = true ∧ t.configSent = [0x03, 0, 0, 0]
      ∧ t.msCount = 0 ∧ t.usInMs = 0 ∧ t.mirror.dirty = [] ∧ t.arbiter.lock = none
      ∧ t.arbiter.copyPass = 0 ∧ t.arbiter.mirrorPass = 0
      ∧ t.arbiter.busy = s.arbiter.busy ∧ t.copy.queue = [] ∧ t.ram = s.ram ∧ t.lanes = s.lanes
      ∧ (t.command p).state = .executing w
      ∧ (∀ v n, (s.command (otherPort p)).state = .pending v n → (t.command (otherPort p)).state = .idle)
      ∧ (∀ q, (t.port q).holdLimit = 10000)
      ∧ (∀ q a op, (s.port q).phase = .atArbiter a op →
          (t.port q).phase = .idle ∧ (t.port q).answer = some ⟨[], some .unavailable⟩
          ∧ (t.port q).faultCount = (s.port q).faultCount)
      ∧ (∀ q a c, (s.port q).phase = .waitingCommit a c →
          (t.port q).phase = .idle ∧ (t.port q).answer = some ⟨[], some .unavailable⟩
          ∧ (t.port q).faultCount = (s.port q).faultCount)
      ∧ (∀ q a c off, (s.port q).phase = .atChannel a c off →
          (t.port q).phase = .idle ∧ (t.port q).answer = some ⟨[], some .unavailable⟩
          ∧ (t.port q).faultCount = (s.port q).faultCount)
      ∧ (∀ q a op c i, (s.port q).phase = .keptBack a op c i →
          (t.port q).phase = .idle ∧ (t.port q).answer = some ⟨[], some .unavailable⟩
          ∧ (t.port q).faultCount = (s.port q).faultCount)
      ∧ (∀ q a op, (s.port q).phase = .granted a op → (t.port q).phase = .granted a op)
      ∧ (∀ b, (t.bank b).config = (s.bank b).config ∧ (t.bank b).probe = .none ∧ (t.bank b).retryTimer = .stopped)
      ∧ t.bcbBase = s.bcbBase ∧ t.clockMHz = s.clockMHz

/-! ## The loader -/

/-- Two ranges, each given by base and length, share an address. -/
def share (b1 n1 b2 n2 : Nat) : Prop :=
  ∃ a, (b1 ≤ a ∧ a < b1 + n1) ∧ (b2 ≤ a ∧ a < b2 + n2)

/-- A range lies wholly inside one of some banks, given by base and size. -/
def insideOne (banks : List (Nat × Nat)) (base len : Nat) : Prop :=
  ∃ b ∈ banks, b.1 ≤ base ∧ base + len ≤ b.1 + b.2

/-- What the checks of a configuration ask: the length and CRC of an image, the listed values of its fields, its
banks, its BCB and its regions; of a channel entry its listed values, its fields and its placement among the banks,
the BCB and the other channels. For an image the other channels are all its other entries (log 38). -/
def Obligations.ConfigurationChecks : Prop :=
  (∀ bytes : List Byte,
     (lengthOk bytes = true ↔
       bitsOf (imageWord bytes 3) 0 8 = 4 ∧ bitsOf (imageWord bytes 3) 8 8 = 8 ∧ bitsOf (imageWord bytes 3) 16 8 ≤ 16
       ∧ (imageWord bytes 2).toNat = 42 + 16 * bitsOf (imageWord bytes 3) 16 8)
     ∧ (crcOk bytes = true ↔
       imageWord bytes (41 + 16 * bitsOf (imageWord bytes 3) 16 8)
         = crc32 ((List.range (4 * (41 + 16 * bitsOf (imageWord bytes 3) 16 8))).map (imageByte bytes)))
     ∧ (fieldsListed bytes = true ↔
       8 ≤ bitsOf (imageWord bytes 4) 0 8 ∧ bitsOf (imageWord bytes 4) 0 8 ≤ 200
       ∧ bitsOf (imageWord bytes 7) 0 2 < 3 ∧ bitsOf (imageWord bytes 7) 2 2 < 3 ∧ bitsOf (imageWord bytes 7) 4 2 < 2
       ∧ (∀ b : Fin 4, bankListed (imageWord bytes (9 + 4 * b.val)) (imageWord bytes (11 + 4 * b.val)) = true)
       ∧ (∀ r : Fin 8, regionListed (imageWord bytes (25 + 2 * r.val)) = true)
       ∧ (∀ e ∈ imageEntries bytes, e.number < 16 ∧ e.listed = true)))
  ∧ (∀ w0 w2 : Word, bankListed w0 w2 = true ↔
     bitsOf w0 0 2 = 0
     ∨ (bitsOf w0 0 2 = 1 ∧ bitsOf w0 2 2 < 2 ∧ bitsOf w0 4 2 < 2 ∧ bitsOf w0 8 4 < 8 ∧ bitsOf w0 20 2 < 2
       ∧ (bitsOf w0 20 2 = 1 → bitsOf w0 24 8 ≠ 0) ∧ bitsOf w2 0 2 < 3))
  ∧ (∀ w0 : Word, regionListed w0 = true ↔
     bitsOf w0 0 2 = 0 ∨ (bitsOf w0 0 2 = 1 ∧ bitsOf w0 4 2 < 3 ∧ bitsOf w0 6 2 < 3))
  ∧ (∀ img : Image,
     (banksOk img = true ↔
       (∀ b cfg, img.banks.get b = some cfg →
         cfg.base % 65536 = 0 ∧ cfg.base + cfg.size ≤ 2 ^ 24 ∧ 4 * cfg.probeOffset < cfg.size)
       ∧ (∀ b d x y, b ≠ d → img.banks.get b = some x → img.banks.get d = some y →
         ¬ share x.base x.size y.base y.size))
     ∧ (bcbOk img = true ↔
       img.bcbBase % 4096 = 0
       ∧ ∃ b cfg, img.banks.get b = some cfg ∧ cfg.base ≤ img.bcbBase ∧ img.bcbBase + 4096 ≤ cfg.base + cfg.size)
     ∧ (regionsOk img = true ↔
       ∀ r, (img.regions.get r).enabled = true →
         (img.regions.get r).base.toNat ≤ (img.regions.get r).limit.toNat))
  ∧ (∀ e : EntryWords, e.listed = true ↔
     bitsOf e.w0 8 2 < 2 ∧ bitsOf e.w0 16 2 < 2 ∧ bitsOf e.w0 18 2 < 2 ∧ bitsOf e.w0 20 2 < 2 ∧ bitsOf e.w0 24 2 < 2
     ∧ bitsOf e.w0 28 2 < 2)
  ∧ (∀ cfg : ChannelConfig, cfg.fieldsOk = true ↔
     16 ≤ cfg.len ∧ cfg.len ≤ 4096 ∧ cfg.len % 16 = 0 ∧ cfg.windowBase % 64 = 0 ∧ cfg.slotBase % 64 = 0
     ∧ (∀ b, cfg.substitute = some b → b % 64 = 0)
     ∧ 2 ≤ cfg.depth ∧ cfg.depth ≤ (match cfg.mode with | .latest => 4 | .queue => 8)
     ∧ cfg.writer ≠ cfg.reader ∧ (cfg.carry = true → cfg.mode = .latest)
     ∧ (cfg.policy = .substitute → cfg.mode = .latest ∧ cfg.substitute ≠ none))
  ∧ (∀ (cfg : ChannelConfig) (e : Surroundings), cfg.accepted e = true ↔
     cfg.fieldsOk = true
     ∧ cfg.windowBase + 4 * cfg.len ≤ 2 ^ 24
     ∧ ¬ share cfg.windowBase (4 * cfg.len) e.bcb 4096
     ∧ (∀ o ∈ e.others, ¬ share cfg.windowBase (4 * cfg.len) o.windowBase (4 * o.len))
     ∧ insideOne e.banks cfg.slotBase (4 * cfg.depth * cfg.len)
     ∧ ¬ share cfg.slotBase (4 * cfg.depth * cfg.len) e.bcb 4096
     ∧ (∀ o ∈ e.others, ¬ share cfg.slotBase (4 * cfg.depth * cfg.len) o.slotBase (4 * o.depth * o.len))
     ∧ (∀ b, cfg.substitute = some b → ¬ share cfg.slotBase (4 * cfg.depth * cfg.len) b (4 * cfg.len))
     ∧ (∀ o ∈ e.others, ∀ b, o.substitute = some b →
         ¬ share cfg.slotBase (4 * cfg.depth * cfg.len) b (4 * o.len))
     ∧ (∀ b, cfg.substitute = some b →
         insideOne e.banks b (4 * cfg.len) ∧ ¬ share b (4 * cfg.len) e.bcb 4096
         ∧ ∀ o ∈ e.others, ¬ share b (4 * cfg.len) o.slotBase (4 * o.depth * o.len)))
  ∧ (∀ (bytes : List Byte) (img : Image) (c : ChanId),
     ((∀ e ∈ imageEntries bytes, e.number ≠ c.val) → channelOk bytes img c = true)
     ∧ (∀ e, (imageEntries bytes).filter (fun x => x.number == c.val) = [e] →
       channelOk bytes img c = e.config.accepted
         ⟨bankRanges (configuredBanks img.banks), img.bcbBase,
           ((imageEntries bytes).filter (fun o => o.number != c.val)).map EntryWords.config⟩)
     ∧ (∀ e f rest, (imageEntries bytes).filter (fun x => x.number == c.val) = e :: f :: rest →
       channelOk bytes img c = false))

/-- The image is judged when its read ends, by its checks in order, the first that fails giving the outcome, and for
check 9 the lowest failing channel; an image that passes them all is accepted with the settings its words give. The
configuration port's select is then inactive and nothing more is sent. The CRC of "123456789" is 0xCBF43926; an absent
configuration memory gives SIGNATURE. The read stops at the word that fails a check of the header. What the words give
(12.4, 12.5), field by field: bytes, least significant first and 0xFF past what was delivered; the device words, the
bank, region and channel entries. -/
def Obligations.ImageJudged : Prop :=
  (∀ (s : State) (bytes : List Byte), s.pinAsserted = false → s.device = .loading → s.loader.phase = .reading →
    exec (.imageReadEnd bytes) s = .next (settle s
      { s with loader := { s.loader with phase := judge bytes, wordsRead := wordsClocked bytes } }))
  ∧ (∀ s : State, s.configSent = (if s.configSelect = true then [0x03, 0, 0, 0] else [])
      ∧ (s.configSelect = true ↔ s.pinAsserted = false ∧ s.device = .loading ∧ s.loader.phase = .reading))
  ∧ (∀ bytes, judge bytes ≠ .reading)
  ∧ crc32 [0x31, 0x32, 0x33, 0x34, 0x35, 0x36, 0x37, 0x38, 0x39] = 0xCBF43926
  ∧ judge [] = .refused .signature 0 ∧ wordsClocked [] = 1
  ∧ (∀ bytes, imageWord bytes 0 ≠ 0x22405A3C → judge bytes = .refused .signature 0)
  ∧ (∀ bytes, imageWord bytes 0 = 0x22405A3C → imageWord bytes 1 ≠ 1 → judge bytes = .refused .format 0)
  ∧ (∀ bytes, imageWord bytes 0 = 0x22405A3C → imageWord bytes 1 = 1 → lengthOk bytes = false →
      judge bytes = .refused .length 0)
  ∧ (∀ bytes, imageWord bytes 0 = 0x22405A3C → imageWord bytes 1 = 1 → lengthOk bytes = true → crcOk bytes = false →
      judge bytes = .refused .crc 0)
  ∧ (∀ bytes img, imageWord bytes 0 = 0x22405A3C → imageWord bytes 1 = 1 → lengthOk bytes = true → crcOk bytes = true →
      img = imageSettings bytes →
      (fieldsListed bytes = false → judge bytes = .refused .badField 0)
      ∧ (fieldsListed bytes = true → banksOk img = false → judge bytes = .refused .bankLayout 0)
      ∧ (fieldsListed bytes = true → banksOk img = true → bcbOk img = false → judge bytes = .refused .bcbPlacement 0)
      ∧ (fieldsListed bytes = true → banksOk img = true → bcbOk img = true → regionsOk img = false →
        judge bytes = .refused .regionRange 0)
      ∧ (fieldsListed bytes = true → banksOk img = true → bcbOk img = true → regionsOk img = true →
        (∀ c, channelOk bytes img c = false → (∀ d, d < c → channelOk bytes img d = true) →
          judge bytes = .refused .channel c)
        ∧ ((∀ c, channelOk bytes img c = true) → judge bytes = .accepted img)))
  ∧ (∀ bytes img, judge bytes = .accepted img →
      img = imageSettings bytes ∧ fieldsListed bytes = true ∧ banksOk img = true ∧ bcbOk img = true
      ∧ regionsOk img = true ∧ ∀ c, channelOk bytes img c = true)
  ∧ (∀ bytes : List Byte,
      (imageSettings bytes).clockMHz = bitsOf (imageWord bytes 4) 0 8
      ∧ (imageSettings bytes).holdLimits =
          ⟨BitVec.ofNat 16 (bitsOf (imageWord bytes 5) 0 16), BitVec.ofNat 16 (bitsOf (imageWord bytes 5) 16 16)⟩
      ∧ (imageSettings bytes).bcbBase = bitsOf (imageWord bytes 6) 0 24
      ∧ (imageSettings bytes).defaultAccess =
          ⟨decodePermission (bitsOf (imageWord bytes 7) 0 2), decodePermission (bitsOf (imageWord bytes 7) 2 2)⟩
      ∧ (imageSettings bytes).scrubInterval = BitVec.ofNat 16 (bitsOf (imageWord bytes 8) 0 16)
      ∧ ((imageSettings bytes).scrubAutoStart = true ↔ bitsOf (imageWord bytes 7) 4 2 = 1)
      ∧ (∀ b : Fin 4, (imageSettings bytes).banks.get b =
          bankEntry (imageWord bytes (9 + 4 * b.val)) (imageWord bytes (10 + 4 * b.val))
            (imageWord bytes (11 + 4 * b.val)) (imageWord bytes (12 + 4 * b.val)))
      ∧ (∀ r : Fin 8, (imageSettings bytes).regions.get r =
          regionEntry (imageWord bytes (25 + 2 * r.val)) (imageWord bytes (26 + 2 * r.val)))
      ∧ (∀ c : ChanId, (imageSettings bytes).channels.get c =
          ((imageEntries bytes).find? (fun e => e.number == c.val)).map EntryWords.config))
  ∧ (∀ bytes : List Byte,
      (imageWord bytes 0 ≠ 0x22405A3C → wordsClocked bytes = 1)
      ∧ (imageWord bytes 0 = 0x22405A3C → imageWord bytes 1 ≠ 1 → wordsClocked bytes = 2)
      ∧ (imageWord bytes 0 = 0x22405A3C → imageWord bytes 1 = 1 → lengthOk bytes = false → wordsClocked bytes = 4)
      ∧ (imageWord bytes 0 = 0x22405A3C → imageWord bytes 1 = 1 → lengthOk bytes = true →
        wordsClocked bytes = 42 + 16 * bitsOf (imageWord bytes 3) 16 8))
  ∧ (∀ (bytes : List Byte) (i : Nat) (k : Fin 4),
      bitsOf (imageWord bytes i) (8 * k.val) 8 = (bytes.getD (4 * i + k.val) 0xFF).toNat)
  ∧ (∀ bytes : List Byte,
      (imageEntries bytes).length = bitsOf (imageWord bytes 3) 16 8
      ∧ ∀ i, i < bitsOf (imageWord bytes 3) 16 8 → (imageEntries bytes)[i]? = some
          ⟨imageWord bytes (41 + 16 * i), imageWord bytes (42 + 16 * i), imageWord bytes (43 + 16 * i),
            imageWord bytes (44 + 16 * i), imageWord bytes (45 + 16 * i), imageWord bytes (46 + 16 * i)⟩)
  ∧ (∀ w0 w1 w2 w3 : Word,
      (bitsOf w0 0 2 ≠ 1 → bankEntry w0 w1 w2 w3 = none)
      ∧ (bitsOf w0 0 2 = 1 → ∃ cfg, bankEntry w0 w1 w2 w3 = some cfg
        ∧ (cfg.checkCode = true ↔ bitsOf w0 2 2 = 1) ∧ (cfg.initAtStart = true ↔ bitsOf w0 4 2 = 1)
        ∧ cfg.size = 65536 * 2 ^ bitsOf w0 8 4
        ∧ cfg.readWaits.toNat = bitsOf w0 12 4 ∧ cfg.writeWaits.toNat = bitsOf w0 16 4
        ∧ cfg.readyTimeout = (if bitsOf w0 20 2 = 1 then some (bitsOf w0 24 8) else none)
        ∧ cfg.base = bitsOf w1 0 24
        ∧ (bitsOf w2 0 2 = 0 → cfg.retryMode = .off) ∧ (bitsOf w2 0 2 = 1 → cfg.retryMode = .limited)
        ∧ (bitsOf w2 0 2 = 2 → cfg.retryMode = .unlimited)
        ∧ (bitsOf w2 4 2 = 0 → cfg.retryPeriod = 10) ∧ (bitsOf w2 4 2 = 1 → cfg.retryPeriod = 50)
        ∧ (bitsOf w2 4 2 = 2 → cfg.retryPeriod = 200) ∧ (bitsOf w2 4 2 = 3 → cfg.retryPeriod = 1000)
        ∧ cfg.stormThreshold.toNat = bitsOf w2 8 8 ∧ cfg.probeOffset = bitsOf w3 0 21))
  ∧ (∀ w0 w1 : Word,
      ((regionEntry w0 w1).enabled = true ↔ bitsOf w0 0 2 = 1)
      ∧ (regionEntry w0 w1).base.toNat = bitsOf w1 0 16 ∧ (regionEntry w0 w1).limit.toNat = bitsOf w1 16 16
      ∧ (regionEntry w0 w1).perms = ⟨decodePermission (bitsOf w0 4 2), decodePermission (bitsOf w0 6 2)⟩)
  ∧ decodePermission 0 = .none ∧ decodePermission 1 = .read ∧ decodePermission 2 = .readWrite
  ∧ (∀ e : EntryWords,
      e.number = bitsOf e.w0 0 8
      ∧ e.config.mode = (if bitsOf e.w0 8 2 = 1 then .queue else .latest) ∧ e.config.depth = bitsOf e.w0 12 4
      ∧ e.config.writer = (if bitsOf e.w0 16 2 = 1 then .port1 else .port0)
      ∧ e.config.reader = (if bitsOf e.w0 18 2 = 1 then .port1 else .port0)
      ∧ (e.config.carry = true ↔ bitsOf e.w0 20 2 = 1)
      ∧ e.config.policy = (if bitsOf e.w0 24 2 = 1 then .substitute else .hold)
      ∧ (e.config.enableAtStart = true ↔ bitsOf e.w0 28 2 = 1)
      ∧ e.config.windowBase = bitsOf e.w1 0 24 ∧ e.config.len = bitsOf e.w2 0 13
      ∧ e.config.slotBase = bitsOf e.w3 0 24 ∧ e.config.freshness = bitsOf e.w4 0 16
      ∧ e.config.substitute = (if bitsOf e.w5 31 1 = 1 then some (bitsOf e.w5 0 24) else none))

/-- What holds of the part as LOADING ends, before the TIMEOUTs of initialization writes and the held accesses are
taken: the settings are in force, the entries enabled at start are LIVE, the scrubber runs when auto-start is set,
from the lowest eligible bank, every BCB offset is due. Counters, captures, masks, staging copies, results and flags
start anew: the issuer of a RELOAD has the result DONE and CMD_DONE pending on its line, FALLBACK has CONFIG_FALLBACK
pending on both, and every other flag is CLEAR. -/
def loadingEnded (dev : Device) (why : LoadOutcome) (c : ChanId) (s u : State) : Prop :=
  u.device = dev ∧ u.loadOutcome = why ∧ u.failedChannel = c
    ∧ u.clockMHz = s.clockMHz ∧ u.arbiter = ⟨none, none, .port1, 0, 0⟩
    ∧ (∀ p, (u.port p).holdLimit = (s.port p).holdLimit ∧ (u.port p).phase = (s.port p).phase
        ∧ (u.port p).hold = (s.port p).hold ∧ (u.port p).faultCount = 0 ∧ (u.port p).capture = ⟨none, 0⟩)
    ∧ u.regions = s.regions ∧ u.defaultAccess = s.defaultAccess ∧ u.bcbBase = s.bcbBase ∧ u.banks = s.banks
    ∧ (∀ d ch, s.chan d = some ch → u.chan d = some
        (if ch.config.enableAtStart = true then liveRecord ch (s.slotBankUp ch.config) else ch))
    ∧ (∀ d, s.chan d = none → u.chan d = none)
    ∧ u.scrub.position = s.eligibleFrom 0 ∧ u.scrub.interval = s.scrub.interval ∧ u.scrub.passes = 0
    ∧ u.scrub.state =
        (if s.loader.scrubAutoStart = true then .running (if s.eligibleFrom 0 = none then .noBank else .requesting)
        else .stopped)
    ∧ u.mirror = ⟨List.range 1024, 1023, .none⟩ ∧ u.ram = s.ram ∧ u.lanes = s.lanes
    ∧ u.ecc = ⟨0, 0, 0⟩ ∧ u.memCapture = ⟨none, 0⟩ ∧ u.copy = ⟨[], .idle, false⟩
    ∧ u.timeoutReports = [] ∧ u.stormReports = []
    ∧ u.globalMask = ⟨0, 0⟩ ∧ u.channelMask = ⟨0, 0⟩ ∧ (∀ p k, (u.staging.get p).get k = 0)
    ∧ (∀ d n, u.channelStage d n = .clear)
    ∧ (∀ l n, n ≠ GlobalFlag.cmdDone.bit →
        u.globalStage l n = if n = GlobalFlag.configFallback.bit ∧ dev = .fallback then .pending else .clear)
    ∧ ((∀ p w, (s.command p).state ≠ .executing w) →
        ∀ p, u.command p = ⟨.idle, 0, .none, none⟩ ∧ u.globalStage p GlobalFlag.cmdDone.bit = .clear)
    ∧ (∀ p w, (s.command p).state = .executing w → (∀ v, (s.command (otherPort p)).state ≠ .executing v) →
        u.command p = ⟨.idle, w, .done, none⟩ ∧ u.globalStage p GlobalFlag.cmdDone.bit = .pending
        ∧ u.command (otherPort p) = ⟨.idle, 0, .none, none⟩
        ∧ u.globalStage (otherPort p) GlobalFlag.cmdDone.bit = .clear)

/-- A failed check applies the fallback map once no operation holds the memory port: its settings, CONFIG_FALLBACK
pending on both lines, every BCB offset due, the device in FALLBACK. An accepted image takes effect once no operation
holds the memory port; with no bank to initialize LOADING ends in RUN: the settings, every configured bank IN_SERVICE,
the channels enabled at start LIVE and the others OFF. With a bank to initialize its first write begins and LOADING
goes on: the settings, hold limits and clock frequency among them, are in force (log 14), and every channel flag is
CLEAR, gone with the table that was replaced (the model's choice, log 28). At the end of LOADING the TIMEOUTs of
initialization writes are taken as faults, and then the held accesses are form-checked and decoded, port 0's first
(log 16), their hold timers running on. -/
def Obligations.LoadingEnds : Prop :=
  (∀ (s : State) (why : LoadOutcome) (c : ChanId), s.pinAsserted = false → s.device = .loading →
     s.loader.phase = .refused why c → s.loader.heldTimeouts = [] → s.arbiter.busy = none →
     (∀ p, (s.port p).phase = .idle) →
     ∃ t, exec .fallbackApply s = .next t
       ∧ t.device = .fallback ∧ t.loadOutcome = why ∧ t.failedChannel = c
       ∧ t.bcbBase = 0x7FF000 ∧ t.clockMHz = 200 ∧ t.defaultAccess = ⟨.readWrite, .readWrite⟩
       ∧ (∀ r, (t.regions.get r).enabled = false) ∧ (∀ d, t.chan d = none)
       ∧ (∀ p, (t.port p).holdLimit = 10000)
       ∧ (t.bank 0).service = .inService
       ∧ (∃ cfg, (t.bank 0).config = some cfg ∧ cfg.base = 0 ∧ cfg.size = 0x800000 ∧ cfg.checkCode = false
           ∧ cfg.readWaits = 15 ∧ cfg.writeWaits = 15 ∧ cfg.readyTimeout = none ∧ cfg.retryMode = .off)
       ∧ (∀ b, b ≠ 0 → (t.bank b).service = .unused ∧ (t.bank b).config = none)
       ∧ t.scrub = ⟨.stopped, none, 0, .stopped, 0, none⟩
       ∧ (∀ l, t.globalStage l GlobalFlag.configFallback.bit = .pending)
       ∧ t.mirror = ⟨List.range 1024, 1023, .none⟩
       ∧ t.ram = s.ram ∧ t.lanes = s.lanes)
  ∧ (∀ (s : State) (img : Image), s.pinAsserted = false → s.device = .loading → s.loader.phase = .accepted img →
     s.loader.heldTimeouts = [] → s.arbiter.busy = none → (∀ p, (s.port p).phase = .idle) →
     (∀ b cfg, img.banks.get b = some cfg → cfg.initAtStart = false) →
     ∃ t, exec .applyImage s = .next t
       ∧ t.device = .run ∧ t.loadOutcome = .ok ∧ t.bcbBase = img.bcbBase ∧ t.clockMHz = img.clockMHz
       ∧ t.defaultAccess = img.defaultAccess ∧ t.regions = img.regions
       ∧ (∀ p, (t.port p).holdLimit = img.holdLimits.get p)
       ∧ (∀ b, (t.bank b).config = img.banks.get b
           ∧ (t.bank b).service = (if (img.banks.get b).isSome = true then .inService else .unused)
           ∧ (t.bank b).retries = 0 ∧ (t.bank b).rfull = false ∧ (t.bank b).cause = .none)
       ∧ (∀ c, img.channels.get c = none → t.chan c = none)
       ∧ (∀ c cfg, img.channels.get c = some cfg →
           ∃ ch, t.chan c = some ch ∧ ch.config = cfg ∧ ch.frames = 0 ∧ ch.lastCommit = none
             ∧ ch.state = (if cfg.enableAtStart = true then .live else .off))
       ∧ (∀ l n, t.globalStage l n = .clear ∨ (n = 0 ∧ ∃ w, (s.command l).state = .executing w))
       ∧ t.mirror = ⟨List.range 1024, 1023, .none⟩
       ∧ t.ram = s.ram ∧ t.lanes = s.lanes)
  ∧ (∀ (s : State) (img : Image), s.pinAsserted = false → s.device = .loading → s.loader.phase = .accepted img →
     s.arbiter.busy = none →
     ((∀ b cfg, img.banks.get b = some cfg → cfg.initAtStart = false) →
       exec .applyImage s = .next (settle s (endLoading .run .ok 0 (applySettings img s))))
     ∧ (∀ b cfg, img.banks.get b = some cfg → cfg.initAtStart = true →
         (∀ d x, d < b → img.banks.get d = some x → x.initAtStart = false) →
       ∃ t, exec .applyImage s = .next t ∧ t.device = .loading ∧ t.loader.phase = .initWrite b
         ∧ t.arbiter.busy = some ⟨.initWrite b cfg.base, 0⟩
         ∧ (∀ p, t.port p = { s.port p with holdLimit := img.holdLimits.get p }) ∧ t.clockMHz = img.clockMHz
         ∧ t.loader.scrubAutoStart = img.scrubAutoStart ∧ t.bcbBase = img.bcbBase
         ∧ t.defaultAccess = img.defaultAccess ∧ t.regions = img.regions ∧ t.ram = s.ram ∧ t.lanes = s.lanes
         ∧ (∀ c n, t.channelStage c n = .clear)))
  ∧ (∀ (dev : Device) (why : LoadOutcome) (c : ChanId) (s : State), (∀ p, (s.port p).phase = .idle
       ∨ ∃ a, (s.port p).phase = .held a) →
     ∃ u, loadingEnded dev why c s u
       ∧ endLoading dev why c s = admitHeld .port1 (admitHeld .port0 (takeHeldTimeouts s.loader.heldTimeouts u)))
  ∧ (∀ s : State, takeHeldTimeouts [] s = s
     ∧ (∀ b bs, takeHeldTimeouts (b :: bs) s = takeHeldTimeouts bs (timeoutFault b s))
     ∧ (∀ b cfg, (s.bank b).service = .inService → (s.bank b).config = some cfg →
       (cfg.retryMode = .off → timeoutFault b s = departFenced b .timeout s)
       ∧ (cfg.retryMode ≠ .off → timeoutFault b s = departRetry b cfg.retryPeriod s))
     ∧ (∀ p, (s.port p).phase = .idle → admitHeld p s = s)
     ∧ (∀ p a, (s.port p).phase = .held a → s.arbiter.lock = none →
       admitHeld p s = if formOk a = true then handOn p a (decode p a s) s else answerFault p a .form s))

/-- An initialization write ends: its word is zero with good code and every byte outside it is as before, and the
loader goes on with the next word of the bank; after the last word it goes on with the next bank to be initialized, or
LOADING ends. A write that times out is noted for the end of LOADING (log 22: the loader takes that end in a step of
its own), and the loader leaves its bank in the same way. -/
def Obligations.InitializationWriteEnds : Prop :=
  (∀ (s : State) (b : BankId) (addr n : Nat), s.pinAsserted = false → s.device = .loading →
    s.arbiter.busy = some ⟨.initWrite b addr, n⟩ →
    ((s.bank b).lastWord addr = false →
      exec .initWriteEnd s = .next (settle s
        { storeWord b addr 0 s with
          loader := { s.loader with phase := .initWrite b }
          arbiter := { s.arbiter with busy := some ⟨.initWrite b (addr + 4), 0⟩ } }))
    ∧ (∀ d cfg, (s.bank b).lastWord addr = true → b < d → (s.bank d).config = some cfg → cfg.initAtStart = true →
        (∀ e x, b < e → e < d → (s.bank e).config = some x → x.initAtStart = false) →
      exec .initWriteEnd s = .next (settle s
        { storeWord b addr 0 s with
          loader := { s.loader with phase := .initWrite d }
          arbiter := { s.arbiter with busy := some ⟨.initWrite d cfg.base, 0⟩ } }))
    ∧ ((s.bank b).lastWord addr = true →
        (∀ e x, b < e → (s.bank e).config = some x → x.initAtStart = false) →
      exec .initWriteEnd s = .next (settle s (endLoading .run .ok 0 (storeWord b addr 0 (s.setBusy none))))))
  ∧ (∀ (s : State) (b : BankId) (addr : Nat), memoryCanonical s →
    wordRead (storeWord b addr 0 s).ram addr = 0
    ∧ (s.isProtected b = true → (storeWord b addr 0 s).classAt addr = .clean)
    ∧ ∀ x, x < addr ∨ addr + 4 ≤ x → cellRead (storeWord b addr 0 s).ram x = cellRead s.ram x)
  ∧ (∀ (s : State) (b : BankId) (addr n : Nat), s.arbiter.busy = some ⟨.initWrite b addr, n⟩ →
    s.pinAsserted = false → s.readyDue b [] n = true →
    exec (.readyTimeout []) s = .next (settle s
      { s with
        arbiter := { s.arbiter with busy := none }
        loader := { s.loader with phase := .initTimedOut b, heldTimeouts := s.loader.heldTimeouts ++ [b] } }))
  ∧ (∀ (s : State) (b : BankId), s.pinAsserted = false → s.device = .loading → s.arbiter.busy = none →
    s.loader.phase = .initTimedOut b →
    (∀ d cfg, b < d → (s.bank d).config = some cfg → cfg.initAtStart = true →
        (∀ e x, b < e → e < d → (s.bank e).config = some x → x.initAtStart = false) →
      exec .initWriteEnd s = .next (settle s
        { s with
          loader := { s.loader with phase := .initWrite d }
          arbiter := { s.arbiter with busy := some ⟨.initWrite d cfg.base, 0⟩ } }))
    ∧ ((∀ e x, b < e → (s.bank e).config = some x → x.initAtStart = false) →
      exec .initWriteEnd s = .next (settle s (endLoading .run .ok 0 s))))
end

