-- ==== Sys2Proof/Laws/State.lean ====
section
/-! SUPPORT. The small lemmas of the state: what each update leaves in each field, and reading back what was
set. -/

namespace Sys2Proof.Machine

open Sys2Proof

/-! ## Pairs and vectors -/

@[simp] theorem Pair.get_set_same {α : Type} (x : Pair α) (p : Port) (v : α) : (x.set p v).get p = v := by
  cases p <;> rfl

@[simp] theorem Pair.get_set_other {α : Type} (x : Pair α) (p : Port) (v : α) :
    (x.set p v).get (otherPort p) = x.get (otherPort p) := by
  cases p <;> rfl

theorem Pair.get_set_ne {α : Type} (x : Pair α) {p q : Port} (v : α) (h : q ≠ p) : (x.set p v).get q = x.get q := by
  cases p <;> cases q <;> first | rfl | exact absurd rfl h

@[simp] theorem otherPort_otherPort (p : Port) : otherPort (otherPort p) = p := by
  cases p <;> rfl

theorem otherPort_ne (p : Port) : otherPort p ≠ p := by
  cases p <;> decide

theorem vector_get_set_same {α : Type} {n : Nat} (v : Vector α n) (i : Fin n) (x : α) : (v.set i x).get i = x := by
  change (v.set i.val x)[i.val] = x
  simp

theorem vector_get_set_ne {α : Type} {n : Nat} (v : Vector α n) {i j : Fin n} (x : α) (h : j ≠ i) :
    (v.set i x).get j = v.get j := by
  have h' : i.val ≠ j.val := fun e => h (Fin.ext e.symm)
  change (v.set i.val x)[j.val] = v[j.val]
  simp [h']

theorem vector_get_map {α β : Type} {n : Nat} (f : α → β) (v : Vector α n) (i : Fin n) :
    (v.map f).get i = f (v.get i) := by
  simp [Vector.get]

theorem vector_get_replicate {α : Type} {n : Nat} (x : α) (i : Fin n) : (Vector.replicate n x).get i = x := by
  simp [Vector.get]

theorem vector_get_mapIdx {α β : Type} {n : Nat} (f : Nat → α → β) (v : Vector α n) (i : Fin n) :
    (v.mapIdx f).get i = f i.val (v.get i) := by
  change (v.mapIdx f)[i.val] = f i.val v[i.val]
  simp

/-! ## Reading back -/

@[simp] theorem port_setPort_same (s : State) (p : Port) (r : PortRecord) : (s.setPort p r).port p = r :=
  Pair.get_set_same _ _ _

theorem port_setPort_ne (s : State) {p q : Port} (r : PortRecord) (h : q ≠ p) : (s.setPort p r).port q = s.port q :=
  Pair.get_set_ne _ _ h

@[simp] theorem port_setPort_other (s : State) (p : Port) (r : PortRecord) :
    (s.setPort p r).port (otherPort p) = s.port (otherPort p) :=
  Pair.get_set_other _ _ _

@[simp] theorem command_setCommand_same (s : State) (p : Port) (x : PortCommand) : (s.setCommand p x).command p = x :=
  Pair.get_set_same _ _ _

@[simp] theorem bank_setBank_same (s : State) (b : BankId) (x : Bank) : (s.setBank b x).bank b = x :=
  vector_get_set_same _ _ _

theorem bank_setBank_ne (s : State) {b d : BankId} (x : Bank) (h : d ≠ b) : (s.setBank b x).bank d = s.bank d :=
  vector_get_set_ne _ _ h

@[simp] theorem chan_setChan_same (s : State) (c : ChanId) (x : Option Channel) : (s.setChan c x).chan c = x :=
  vector_get_set_same _ _ _

theorem chan_setChan_ne (s : State) {c d : ChanId} (x : Option Channel) (h : d ≠ c) :
    (s.setChan c x).chan d = s.chan d :=
  vector_get_set_ne _ _ h

@[simp] theorem Channel.slot_setSlot_same (ch : Channel) (i : Fin 8) (x : Slot) : (ch.setSlot i x).slot i = x :=
  vector_get_set_same _ _ _

theorem Channel.slot_setSlot_ne (ch : Channel) {i j : Fin 8} (x : Slot) (h : j ≠ i) :
    (ch.setSlot i x).slot j = ch.slot j :=
  vector_get_set_ne _ _ h

@[simp] theorem globalStage_setGlobalStage_same (s : State) (l : Port) (n : Fin 9) (g : Stage) :
    (s.setGlobalStage l n g).globalStage l n = g := by
  simp [State.globalStage, State.setGlobalStage, vector_get_set_same]

@[simp] theorem channelStage_setChannelStage_same (s : State) (c : ChanId) (n : Fin 7) (g : Stage) :
    (s.setChannelStage c n g).channelStage c n = g := by
  simp [State.channelStage, State.setChannelStage, vector_get_set_same]


/-! ## setPort -/

@[simp] theorem pinAsserted_setPort (s : State) (p : Port) (r : PortRecord) : (s.setPort p r).pinAsserted = s.pinAsserted := rfl
@[simp] theorem device_setPort (s : State) (p : Port) (r : PortRecord) : (s.setPort p r).device = s.device := rfl
@[simp] theorem resetCause_setPort (s : State) (p : Port) (r : PortRecord) : (s.setPort p r).resetCause = s.resetCause := rfl
@[simp] theorem loadOutcome_setPort (s : State) (p : Port) (r : PortRecord) : (s.setPort p r).loadOutcome = s.loadOutcome := rfl
@[simp] theorem failedChannel_setPort (s : State) (p : Port) (r : PortRecord) : (s.setPort p r).failedChannel = s.failedChannel := rfl
@[simp] theorem loader_setPort (s : State) (p : Port) (r : PortRecord) : (s.setPort p r).loader = s.loader := rfl
@[simp] theorem clockMHz_setPort (s : State) (p : Port) (r : PortRecord) : (s.setPort p r).clockMHz = s.clockMHz := rfl
@[simp] theorem msCount_setPort (s : State) (p : Port) (r : PortRecord) : (s.setPort p r).msCount = s.msCount := rfl
@[simp] theorem usInMs_setPort (s : State) (p : Port) (r : PortRecord) : (s.setPort p r).usInMs = s.usInMs := rfl
@[simp] theorem defaultAccess_setPort (s : State) (p : Port) (r : PortRecord) : (s.setPort p r).defaultAccess = s.defaultAccess := rfl
@[simp] theorem bcbBase_setPort (s : State) (p : Port) (r : PortRecord) : (s.setPort p r).bcbBase = s.bcbBase := rfl
@[simp] theorem regions_setPort (s : State) (p : Port) (r : PortRecord) : (s.setPort p r).regions = s.regions := rfl
@[simp] theorem banks_setPort (s : State) (p : Port) (r : PortRecord) : (s.setPort p r).banks = s.banks := rfl
@[simp] theorem timeoutReports_setPort (s : State) (p : Port) (r : PortRecord) : (s.setPort p r).timeoutReports = s.timeoutReports := rfl
@[simp] theorem stormReports_setPort (s : State) (p : Port) (r : PortRecord) : (s.setPort p r).stormReports = s.stormReports := rfl
@[simp] theorem channels_setPort (s : State) (p : Port) (r : PortRecord) : (s.setPort p r).channels = s.channels := rfl
@[simp] theorem copy_setPort (s : State) (p : Port) (r : PortRecord) : (s.setPort p r).copy = s.copy := rfl
@[simp] theorem arbiter_setPort (s : State) (p : Port) (r : PortRecord) : (s.setPort p r).arbiter = s.arbiter := rfl
@[simp] theorem ecc_setPort (s : State) (p : Port) (r : PortRecord) : (s.setPort p r).ecc = s.ecc := rfl
@[simp] theorem memCapture_setPort (s : State) (p : Port) (r : PortRecord) : (s.setPort p r).memCapture = s.memCapture := rfl
@[simp] theorem scrub_setPort (s : State) (p : Port) (r : PortRecord) : (s.setPort p r).scrub = s.scrub := rfl
@[simp] theorem globalFlags_setPort (s : State) (p : Port) (r : PortRecord) : (s.setPort p r).globalFlags = s.globalFlags := rfl
@[simp] theorem channelFlags_setPort (s : State) (p : Port) (r : PortRecord) : (s.setPort p r).channelFlags = s.channelFlags := rfl
@[simp] theorem globalMask_setPort (s : State) (p : Port) (r : PortRecord) : (s.setPort p r).globalMask = s.globalMask := rfl
@[simp] theorem channelMask_setPort (s : State) (p : Port) (r : PortRecord) : (s.setPort p r).channelMask = s.channelMask := rfl
@[simp] theorem mirror_setPort (s : State) (p : Port) (r : PortRecord) : (s.setPort p r).mirror = s.mirror := rfl
@[simp] theorem commands_setPort (s : State) (p : Port) (r : PortRecord) : (s.setPort p r).commands = s.commands := rfl
@[simp] theorem nextStamp_setPort (s : State) (p : Port) (r : PortRecord) : (s.setPort p r).nextStamp = s.nextStamp := rfl
@[simp] theorem staging_setPort (s : State) (p : Port) (r : PortRecord) : (s.setPort p r).staging = s.staging := rfl
@[simp] theorem ram_setPort (s : State) (p : Port) (r : PortRecord) : (s.setPort p r).ram = s.ram := rfl
@[simp] theorem lanes_setPort (s : State) (p : Port) (r : PortRecord) : (s.setPort p r).lanes = s.lanes := rfl
@[simp] theorem freeCount_setPort (s : State) (p : Port) (r : PortRecord) : (s.setPort p r).freeCount = s.freeCount := rfl
@[simp] theorem pending_setPort (s : State) (p : Port) (r : PortRecord) : (s.setPort p r).pending = s.pending := rfl

/-! ## setBank -/

@[simp] theorem pinAsserted_setBank (s : State) (b : BankId) (x : Bank) : (s.setBank b x).pinAsserted = s.pinAsserted := rfl
@[simp] theorem device_setBank (s : State) (b : BankId) (x : Bank) : (s.setBank b x).device = s.device := rfl
@[simp] theorem resetCause_setBank (s : State) (b : BankId) (x : Bank) : (s.setBank b x).resetCause = s.resetCause := rfl
@[simp] theorem loadOutcome_setBank (s : State) (b : BankId) (x : Bank) : (s.setBank b x).loadOutcome = s.loadOutcome := rfl
@[simp] theorem failedChannel_setBank (s : State) (b : BankId) (x : Bank) : (s.setBank b x).failedChannel = s.failedChannel := rfl
@[simp] theorem loader_setBank (s : State) (b : BankId) (x : Bank) : (s.setBank b x).loader = s.loader := rfl
@[simp] theorem clockMHz_setBank (s : State) (b : BankId) (x : Bank) : (s.setBank b x).clockMHz = s.clockMHz := rfl
@[simp] theorem msCount_setBank (s : State) (b : BankId) (x : Bank) : (s.setBank b x).msCount = s.msCount := rfl
@[simp] theorem usInMs_setBank (s : State) (b : BankId) (x : Bank) : (s.setBank b x).usInMs = s.usInMs := rfl
@[simp] theorem ports_setBank (s : State) (b : BankId) (x : Bank) : (s.setBank b x).ports = s.ports := rfl
@[simp] theorem defaultAccess_setBank (s : State) (b : BankId) (x : Bank) : (s.setBank b x).defaultAccess = s.defaultAccess := rfl
@[simp] theorem bcbBase_setBank (s : State) (b : BankId) (x : Bank) : (s.setBank b x).bcbBase = s.bcbBase := rfl
@[simp] theorem regions_setBank (s : State) (b : BankId) (x : Bank) : (s.setBank b x).regions = s.regions := rfl
@[simp] theorem timeoutReports_setBank (s : State) (b : BankId) (x : Bank) : (s.setBank b x).timeoutReports = s.timeoutReports := rfl
@[simp] theorem stormReports_setBank (s : State) (b : BankId) (x : Bank) : (s.setBank b x).stormReports = s.stormReports := rfl
@[simp] theorem channels_setBank (s : State) (b : BankId) (x : Bank) : (s.setBank b x).channels = s.channels := rfl
@[simp] theorem copy_setBank (s : State) (b : BankId) (x : Bank) : (s.setBank b x).copy = s.copy := rfl
@[simp] theorem arbiter_setBank (s : State) (b : BankId) (x : Bank) : (s.setBank b x).arbiter = s.arbiter := rfl
@[simp] theorem ecc_setBank (s : State) (b : BankId) (x : Bank) : (s.setBank b x).ecc = s.ecc := rfl
@[simp] theorem memCapture_setBank (s : State) (b : BankId) (x : Bank) : (s.setBank b x).memCapture = s.memCapture := rfl
@[simp] theorem scrub_setBank (s : State) (b : BankId) (x : Bank) : (s.setBank b x).scrub = s.scrub := rfl
@[simp] theorem globalFlags_setBank (s : State) (b : BankId) (x : Bank) : (s.setBank b x).globalFlags = s.globalFlags := rfl
@[simp] theorem channelFlags_setBank (s : State) (b : BankId) (x : Bank) : (s.setBank b x).channelFlags = s.channelFlags := rfl
@[simp] theorem globalMask_setBank (s : State) (b : BankId) (x : Bank) : (s.setBank b x).globalMask = s.globalMask := rfl
@[simp] theorem channelMask_setBank (s : State) (b : BankId) (x : Bank) : (s.setBank b x).channelMask = s.channelMask := rfl
@[simp] theorem mirror_setBank (s : State) (b : BankId) (x : Bank) : (s.setBank b x).mirror = s.mirror := rfl
@[simp] theorem commands_setBank (s : State) (b : BankId) (x : Bank) : (s.setBank b x).commands = s.commands := rfl
@[simp] theorem nextStamp_setBank (s : State) (b : BankId) (x : Bank) : (s.setBank b x).nextStamp = s.nextStamp := rfl
@[simp] theorem staging_setBank (s : State) (b : BankId) (x : Bank) : (s.setBank b x).staging = s.staging := rfl
@[simp] theorem ram_setBank (s : State) (b : BankId) (x : Bank) : (s.setBank b x).ram = s.ram := rfl
@[simp] theorem lanes_setBank (s : State) (b : BankId) (x : Bank) : (s.setBank b x).lanes = s.lanes := rfl
@[simp] theorem freeCount_setBank (s : State) (b : BankId) (x : Bank) : (s.setBank b x).freeCount = s.freeCount := rfl
@[simp] theorem pending_setBank (s : State) (b : BankId) (x : Bank) : (s.setBank b x).pending = s.pending := rfl

/-! ## setChan -/

@[simp] theorem pinAsserted_setChan (s : State) (c : ChanId) (x : Option Channel) : (s.setChan c x).pinAsserted = s.pinAsserted := rfl
@[simp] theorem device_setChan (s : State) (c : ChanId) (x : Option Channel) : (s.setChan c x).device = s.device := rfl
@[simp] theorem resetCause_setChan (s : State) (c : ChanId) (x : Option Channel) : (s.setChan c x).resetCause = s.resetCause := rfl
@[simp] theorem loadOutcome_setChan (s : State) (c : ChanId) (x : Option Channel) : (s.setChan c x).loadOutcome = s.loadOutcome := rfl
@[simp] theorem failedChannel_setChan (s : State) (c : ChanId) (x : Option Channel) : (s.setChan c x).failedChannel = s.failedChannel := rfl
@[simp] theorem loader_setChan (s : State) (c : ChanId) (x : Option Channel) : (s.setChan c x).loader = s.loader := rfl
@[simp] theorem clockMHz_setChan (s : State) (c : ChanId) (x : Option Channel) : (s.setChan c x).clockMHz = s.clockMHz := rfl
@[simp] theorem msCount_setChan (s : State) (c : ChanId) (x : Option Channel) : (s.setChan c x).msCount = s.msCount := rfl
@[simp] theorem usInMs_setChan (s : State) (c : ChanId) (x : Option Channel) : (s.setChan c x).usInMs = s.usInMs := rfl
@[simp] theorem ports_setChan (s : State) (c : ChanId) (x : Option Channel) : (s.setChan c x).ports = s.ports := rfl
@[simp] theorem defaultAccess_setChan (s : State) (c : ChanId) (x : Option Channel) : (s.setChan c x).defaultAccess = s.defaultAccess := rfl
@[simp] theorem bcbBase_setChan (s : State) (c : ChanId) (x : Option Channel) : (s.setChan c x).bcbBase = s.bcbBase := rfl
@[simp] theorem regions_setChan (s : State) (c : ChanId) (x : Option Channel) : (s.setChan c x).regions = s.regions := rfl
@[simp] theorem banks_setChan (s : State) (c : ChanId) (x : Option Channel) : (s.setChan c x).banks = s.banks := rfl
@[simp] theorem timeoutReports_setChan (s : State) (c : ChanId) (x : Option Channel) : (s.setChan c x).timeoutReports = s.timeoutReports := rfl
@[simp] theorem stormReports_setChan (s : State) (c : ChanId) (x : Option Channel) : (s.setChan c x).stormReports = s.stormReports := rfl
@[simp] theorem copy_setChan (s : State) (c : ChanId) (x : Option Channel) : (s.setChan c x).copy = s.copy := rfl
@[simp] theorem arbiter_setChan (s : State) (c : ChanId) (x : Option Channel) : (s.setChan c x).arbiter = s.arbiter := rfl
@[simp] theorem ecc_setChan (s : State) (c : ChanId) (x : Option Channel) : (s.setChan c x).ecc = s.ecc := rfl
@[simp] theorem memCapture_setChan (s : State) (c : ChanId) (x : Option Channel) : (s.setChan c x).memCapture = s.memCapture := rfl
@[simp] theorem scrub_setChan (s : State) (c : ChanId) (x : Option Channel) : (s.setChan c x).scrub = s.scrub := rfl
@[simp] theorem globalFlags_setChan (s : State) (c : ChanId) (x : Option Channel) : (s.setChan c x).globalFlags = s.globalFlags := rfl
@[simp] theorem channelFlags_setChan (s : State) (c : ChanId) (x : Option Channel) : (s.setChan c x).channelFlags = s.channelFlags := rfl
@[simp] theorem globalMask_setChan (s : State) (c : ChanId) (x : Option Channel) : (s.setChan c x).globalMask = s.globalMask := rfl
@[simp] theorem channelMask_setChan (s : State) (c : ChanId) (x : Option Channel) : (s.setChan c x).channelMask = s.channelMask := rfl
@[simp] theorem mirror_setChan (s : State) (c : ChanId) (x : Option Channel) : (s.setChan c x).mirror = s.mirror := rfl
@[simp] theorem commands_setChan (s : State) (c : ChanId) (x : Option Channel) : (s.setChan c x).commands = s.commands := rfl
@[simp] theorem nextStamp_setChan (s : State) (c : ChanId) (x : Option Channel) : (s.setChan c x).nextStamp = s.nextStamp := rfl
@[simp] theorem staging_setChan (s : State) (c : ChanId) (x : Option Channel) : (s.setChan c x).staging = s.staging := rfl
@[simp] theorem ram_setChan (s : State) (c : ChanId) (x : Option Channel) : (s.setChan c x).ram = s.ram := rfl
@[simp] theorem lanes_setChan (s : State) (c : ChanId) (x : Option Channel) : (s.setChan c x).lanes = s.lanes := rfl
@[simp] theorem freeCount_setChan (s : State) (c : ChanId) (x : Option Channel) : (s.setChan c x).freeCount = s.freeCount := rfl
@[simp] theorem pending_setChan (s : State) (c : ChanId) (x : Option Channel) : (s.setChan c x).pending = s.pending := rfl

/-! ## setCommand -/

@[simp] theorem pinAsserted_setCommand (s : State) (p : Port) (x : PortCommand) : (s.setCommand p x).pinAsserted = s.pinAsserted := rfl
@[simp] theorem device_setCommand (s : State) (p : Port) (x : PortCommand) : (s.setCommand p x).device = s.device := rfl
@[simp] theorem resetCause_setCommand (s : State) (p : Port) (x : PortCommand) : (s.setCommand p x).resetCause = s.resetCause := rfl
@[simp] theorem loadOutcome_setCommand (s : State) (p : Port) (x : PortCommand) : (s.setCommand p x).loadOutcome = s.loadOutcome := rfl
@[simp] theorem failedChannel_setCommand (s : State) (p : Port) (x : PortCommand) : (s.setCommand p x).failedChannel = s.failedChannel := rfl
@[simp] theorem loader_setCommand (s : State) (p : Port) (x : PortCommand) : (s.setCommand p x).loader = s.loader := rfl
@[simp] theorem clockMHz_setCommand (s : State) (p : Port) (x : PortCommand) : (s.setCommand p x).clockMHz = s.clockMHz := rfl
@[simp] theorem msCount_setCommand (s : State) (p : Port) (x : PortCommand) : (s.setCommand p x).msCount = s.msCount := rfl
@[simp] theorem usInMs_setCommand (s : State) (p : Port) (x : PortCommand) : (s.setCommand p x).usInMs = s.usInMs := rfl
@[simp] theorem ports_setCommand (s : State) (p : Port) (x : PortCommand) : (s.setCommand p x).ports = s.ports := rfl
@[simp] theorem defaultAccess_setCommand (s : State) (p : Port) (x : PortCommand) : (s.setCommand p x).defaultAccess = s.defaultAccess := rfl
@[simp] theorem bcbBase_setCommand (s : State) (p : Port) (x : PortCommand) : (s.setCommand p x).bcbBase = s.bcbBase := rfl
@[simp] theorem regions_setCommand (s : State) (p : Port) (x : PortCommand) : (s.setCommand p x).regions = s.regions := rfl
@[simp] theorem banks_setCommand (s : State) (p : Port) (x : PortCommand) : (s.setCommand p x).banks = s.banks := rfl
@[simp] theorem timeoutReports_setCommand (s : State) (p : Port) (x : PortCommand) : (s.setCommand p x).timeoutReports = s.timeoutReports := rfl
@[simp] theorem stormReports_setCommand (s : State) (p : Port) (x : PortCommand) : (s.setCommand p x).stormReports = s.stormReports := rfl
@[simp] theorem channels_setCommand (s : State) (p : Port) (x : PortCommand) : (s.setCommand p x).channels = s.channels := rfl
@[simp] theorem copy_setCommand (s : State) (p : Port) (x : PortCommand) : (s.setCommand p x).copy = s.copy := rfl
@[simp] theorem arbiter_setCommand (s : State) (p : Port) (x : PortCommand) : (s.setCommand p x).arbiter = s.arbiter := rfl
@[simp] theorem ecc_setCommand (s : State) (p : Port) (x : PortCommand) : (s.setCommand p x).ecc = s.ecc := rfl
@[simp] theorem memCapture_setCommand (s : State) (p : Port) (x : PortCommand) : (s.setCommand p x).memCapture = s.memCapture := rfl
@[simp] theorem scrub_setCommand (s : State) (p : Port) (x : PortCommand) : (s.setCommand p x).scrub = s.scrub := rfl
@[simp] theorem globalFlags_setCommand (s : State) (p : Port) (x : PortCommand) : (s.setCommand p x).globalFlags = s.globalFlags := rfl
@[simp] theorem channelFlags_setCommand (s : State) (p : Port) (x : PortCommand) : (s.setCommand p x).channelFlags = s.channelFlags := rfl
@[simp] theorem globalMask_setCommand (s : State) (p : Port) (x : PortCommand) : (s.setCommand p x).globalMask = s.globalMask := rfl
@[simp] theorem channelMask_setCommand (s : State) (p : Port) (x : PortCommand) : (s.setCommand p x).channelMask = s.channelMask := rfl
@[simp] theorem mirror_setCommand (s : State) (p : Port) (x : PortCommand) : (s.setCommand p x).mirror = s.mirror := rfl
@[simp] theorem nextStamp_setCommand (s : State) (p : Port) (x : PortCommand) : (s.setCommand p x).nextStamp = s.nextStamp := rfl
@[simp] theorem staging_setCommand (s : State) (p : Port) (x : PortCommand) : (s.setCommand p x).staging = s.staging := rfl
@[simp] theorem ram_setCommand (s : State) (p : Port) (x : PortCommand) : (s.setCommand p x).ram = s.ram := rfl
@[simp] theorem lanes_setCommand (s : State) (p : Port) (x : PortCommand) : (s.setCommand p x).lanes = s.lanes := rfl
@[simp] theorem freeCount_setCommand (s : State) (p : Port) (x : PortCommand) : (s.setCommand p x).freeCount = s.freeCount := rfl
@[simp] theorem pending_setCommand (s : State) (p : Port) (x : PortCommand) : (s.setCommand p x).pending = s.pending := rfl

/-! ## setPhase -/

@[simp] theorem pinAsserted_setPhase (s : State) (p : Port) (ph : PortPhase) : (s.setPhase p ph).pinAsserted = s.pinAsserted := rfl
@[simp] theorem device_setPhase (s : State) (p : Port) (ph : PortPhase) : (s.setPhase p ph).device = s.device := rfl
@[simp] theorem resetCause_setPhase (s : State) (p : Port) (ph : PortPhase) : (s.setPhase p ph).resetCause = s.resetCause := rfl
@[simp] theorem loadOutcome_setPhase (s : State) (p : Port) (ph : PortPhase) : (s.setPhase p ph).loadOutcome = s.loadOutcome := rfl
@[simp] theorem failedChannel_setPhase (s : State) (p : Port) (ph : PortPhase) : (s.setPhase p ph).failedChannel = s.failedChannel := rfl
@[simp] theorem loader_setPhase (s : State) (p : Port) (ph : PortPhase) : (s.setPhase p ph).loader = s.loader := rfl
@[simp] theorem clockMHz_setPhase (s : State) (p : Port) (ph : PortPhase) : (s.setPhase p ph).clockMHz = s.clockMHz := rfl
@[simp] theorem msCount_setPhase (s : State) (p : Port) (ph : PortPhase) : (s.setPhase p ph).msCount = s.msCount := rfl
@[simp] theorem usInMs_setPhase (s : State) (p : Port) (ph : PortPhase) : (s.setPhase p ph).usInMs = s.usInMs := rfl
@[simp] theorem defaultAccess_setPhase (s : State) (p : Port) (ph : PortPhase) : (s.setPhase p ph).defaultAccess = s.defaultAccess := rfl
@[simp] theorem bcbBase_setPhase (s : State) (p : Port) (ph : PortPhase) : (s.setPhase p ph).bcbBase = s.bcbBase := rfl
@[simp] theorem regions_setPhase (s : State) (p : Port) (ph : PortPhase) : (s.setPhase p ph).regions = s.regions := rfl
@[simp] theorem banks_setPhase (s : State) (p : Port) (ph : PortPhase) : (s.setPhase p ph).banks = s.banks := rfl
@[simp] theorem timeoutReports_setPhase (s : State) (p : Port) (ph : PortPhase) : (s.setPhase p ph).timeoutReports = s.timeoutReports := rfl
@[simp] theorem stormReports_setPhase (s : State) (p : Port) (ph : PortPhase) : (s.setPhase p ph).stormReports = s.stormReports := rfl
@[simp] theorem channels_setPhase (s : State) (p : Port) (ph : PortPhase) : (s.setPhase p ph).channels = s.channels := rfl
@[simp] theorem copy_setPhase (s : State) (p : Port) (ph : PortPhase) : (s.setPhase p ph).copy = s.copy := rfl
@[simp] theorem arbiter_setPhase (s : State) (p : Port) (ph : PortPhase) : (s.setPhase p ph).arbiter = s.arbiter := rfl
@[simp] theorem ecc_setPhase (s : State) (p : Port) (ph : PortPhase) : (s.setPhase p ph).ecc = s.ecc := rfl
@[simp] theorem memCapture_setPhase (s : State) (p : Port) (ph : PortPhase) : (s.setPhase p ph).memCapture = s.memCapture := rfl
@[simp] theorem scrub_setPhase (s : State) (p : Port) (ph : PortPhase) : (s.setPhase p ph).scrub = s.scrub := rfl
@[simp] theorem globalFlags_setPhase (s : State) (p : Port) (ph : PortPhase) : (s.setPhase p ph).globalFlags = s.globalFlags := rfl
@[simp] theorem channelFlags_setPhase (s : State) (p : Port) (ph : PortPhase) : (s.setPhase p ph).channelFlags = s.channelFlags := rfl
@[simp] theorem globalMask_setPhase (s : State) (p : Port) (ph : PortPhase) : (s.setPhase p ph).globalMask = s.globalMask := rfl
@[simp] theorem channelMask_setPhase (s : State) (p : Port) (ph : PortPhase) : (s.setPhase p ph).channelMask = s.channelMask := rfl
@[simp] theorem mirror_setPhase (s : State) (p : Port) (ph : PortPhase) : (s.setPhase p ph).mirror = s.mirror := rfl
@[simp] theorem commands_setPhase (s : State) (p : Port) (ph : PortPhase) : (s.setPhase p ph).commands = s.commands := rfl
@[simp] theorem nextStamp_setPhase (s : State) (p : Port) (ph : PortPhase) : (s.setPhase p ph).nextStamp = s.nextStamp := rfl
@[simp] theorem staging_setPhase (s : State) (p : Port) (ph : PortPhase) : (s.setPhase p ph).staging = s.staging := rfl
@[simp] theorem ram_setPhase (s : State) (p : Port) (ph : PortPhase) : (s.setPhase p ph).ram = s.ram := rfl
@[simp] theorem lanes_setPhase (s : State) (p : Port) (ph : PortPhase) : (s.setPhase p ph).lanes = s.lanes := rfl
@[simp] theorem freeCount_setPhase (s : State) (p : Port) (ph : PortPhase) : (s.setPhase p ph).freeCount = s.freeCount := rfl
@[simp] theorem pending_setPhase (s : State) (p : Port) (ph : PortPhase) : (s.setPhase p ph).pending = s.pending := rfl

/-! ## setBusy -/

@[simp] theorem pinAsserted_setBusy (s : State) (b : Option Busy) : (s.setBusy b).pinAsserted = s.pinAsserted := rfl
@[simp] theorem device_setBusy (s : State) (b : Option Busy) : (s.setBusy b).device = s.device := rfl
@[simp] theorem resetCause_setBusy (s : State) (b : Option Busy) : (s.setBusy b).resetCause = s.resetCause := rfl
@[simp] theorem loadOutcome_setBusy (s : State) (b : Option Busy) : (s.setBusy b).loadOutcome = s.loadOutcome := rfl
@[simp] theorem failedChannel_setBusy (s : State) (b : Option Busy) : (s.setBusy b).failedChannel = s.failedChannel := rfl
@[simp] theorem loader_setBusy (s : State) (b : Option Busy) : (s.setBusy b).loader = s.loader := rfl
@[simp] theorem clockMHz_setBusy (s : State) (b : Option Busy) : (s.setBusy b).clockMHz = s.clockMHz := rfl
@[simp] theorem msCount_setBusy (s : State) (b : Option Busy) : (s.setBusy b).msCount = s.msCount := rfl
@[simp] theorem usInMs_setBusy (s : State) (b : Option Busy) : (s.setBusy b).usInMs = s.usInMs := rfl
@[simp] theorem ports_setBusy (s : State) (b : Option Busy) : (s.setBusy b).ports = s.ports := rfl
@[simp] theorem defaultAccess_setBusy (s : State) (b : Option Busy) : (s.setBusy b).defaultAccess = s.defaultAccess := rfl
@[simp] theorem bcbBase_setBusy (s : State) (b : Option Busy) : (s.setBusy b).bcbBase = s.bcbBase := rfl
@[simp] theorem regions_setBusy (s : State) (b : Option Busy) : (s.setBusy b).regions = s.regions := rfl
@[simp] theorem banks_setBusy (s : State) (b : Option Busy) : (s.setBusy b).banks = s.banks := rfl
@[simp] theorem timeoutReports_setBusy (s : State) (b : Option Busy) : (s.setBusy b).timeoutReports = s.timeoutReports := rfl
@[simp] theorem stormReports_setBusy (s : State) (b : Option Busy) : (s.setBusy b).stormReports = s.stormReports := rfl
@[simp] theorem channels_setBusy (s : State) (b : Option Busy) : (s.setBusy b).channels = s.channels := rfl
@[simp] theorem copy_setBusy (s : State) (b : Option Busy) : (s.setBusy b).copy = s.copy := rfl
@[simp] theorem ecc_setBusy (s : State) (b : Option Busy) : (s.setBusy b).ecc = s.ecc := rfl
@[simp] theorem memCapture_setBusy (s : State) (b : Option Busy) : (s.setBusy b).memCapture = s.memCapture := rfl
@[simp] theorem scrub_setBusy (s : State) (b : Option Busy) : (s.setBusy b).scrub = s.scrub := rfl
@[simp] theorem globalFlags_setBusy (s : State) (b : Option Busy) : (s.setBusy b).globalFlags = s.globalFlags := rfl
@[simp] theorem channelFlags_setBusy (s : State) (b : Option Busy) : (s.setBusy b).channelFlags = s.channelFlags := rfl
@[simp] theorem globalMask_setBusy (s : State) (b : Option Busy) : (s.setBusy b).globalMask = s.globalMask := rfl
@[simp] theorem channelMask_setBusy (s : State) (b : Option Busy) : (s.setBusy b).channelMask = s.channelMask := rfl
@[simp] theorem mirror_setBusy (s : State) (b : Option Busy) : (s.setBusy b).mirror = s.mirror := rfl
@[simp] theorem commands_setBusy (s : State) (b : Option Busy) : (s.setBusy b).commands = s.commands := rfl
@[simp] theorem nextStamp_setBusy (s : State) (b : Option Busy) : (s.setBusy b).nextStamp = s.nextStamp := rfl
@[simp] theorem staging_setBusy (s : State) (b : Option Busy) : (s.setBusy b).staging = s.staging := rfl
@[simp] theorem ram_setBusy (s : State) (b : Option Busy) : (s.setBusy b).ram = s.ram := rfl
@[simp] theorem lanes_setBusy (s : State) (b : Option Busy) : (s.setBusy b).lanes = s.lanes := rfl
@[simp] theorem freeCount_setBusy (s : State) (b : Option Busy) : (s.setBusy b).freeCount = s.freeCount := rfl
@[simp] theorem pending_setBusy (s : State) (b : Option Busy) : (s.setBusy b).pending = s.pending := rfl

/-! ## setLock -/

@[simp] theorem pinAsserted_setLock (s : State) (l : Option Lock) : (s.setLock l).pinAsserted = s.pinAsserted := rfl
@[simp] theorem device_setLock (s : State) (l : Option Lock) : (s.setLock l).device = s.device := rfl
@[simp] theorem resetCause_setLock (s : State) (l : Option Lock) : (s.setLock l).resetCause = s.resetCause := rfl
@[simp] theorem loadOutcome_setLock (s : State) (l : Option Lock) : (s.setLock l).loadOutcome = s.loadOutcome := rfl
@[simp] theorem failedChannel_setLock (s : State) (l : Option Lock) : (s.setLock l).failedChannel = s.failedChannel := rfl
@[simp] theorem loader_setLock (s : State) (l : Option Lock) : (s.setLock l).loader = s.loader := rfl
@[simp] theorem clockMHz_setLock (s : State) (l : Option Lock) : (s.setLock l).clockMHz = s.clockMHz := rfl
@[simp] theorem msCount_setLock (s : State) (l : Option Lock) : (s.setLock l).msCount = s.msCount := rfl
@[simp] theorem usInMs_setLock (s : State) (l : Option Lock) : (s.setLock l).usInMs = s.usInMs := rfl
@[simp] theorem ports_setLock (s : State) (l : Option Lock) : (s.setLock l).ports = s.ports := rfl
@[simp] theorem defaultAccess_setLock (s : State) (l : Option Lock) : (s.setLock l).defaultAccess = s.defaultAccess := rfl
@[simp] theorem bcbBase_setLock (s : State) (l : Option Lock) : (s.setLock l).bcbBase = s.bcbBase := rfl
@[simp] theorem regions_setLock (s : State) (l : Option Lock) : (s.setLock l).regions = s.regions := rfl
@[simp] theorem banks_setLock (s : State) (l : Option Lock) : (s.setLock l).banks = s.banks := rfl
@[simp] theorem timeoutReports_setLock (s : State) (l : Option Lock) : (s.setLock l).timeoutReports = s.timeoutReports := rfl
@[simp] theorem stormReports_setLock (s : State) (l : Option Lock) : (s.setLock l).stormReports = s.stormReports := rfl
@[simp] theorem channels_setLock (s : State) (l : Option Lock) : (s.setLock l).channels = s.channels := rfl
@[simp] theorem copy_setLock (s : State) (l : Option Lock) : (s.setLock l).copy = s.copy := rfl
@[simp] theorem ecc_setLock (s : State) (l : Option Lock) : (s.setLock l).ecc = s.ecc := rfl
@[simp] theorem memCapture_setLock (s : State) (l : Option Lock) : (s.setLock l).memCapture = s.memCapture := rfl
@[simp] theorem scrub_setLock (s : State) (l : Option Lock) : (s.setLock l).scrub = s.scrub := rfl
@[simp] theorem globalFlags_setLock (s : State) (l : Option Lock) : (s.setLock l).globalFlags = s.globalFlags := rfl
@[simp] theorem channelFlags_setLock (s : State) (l : Option Lock) : (s.setLock l).channelFlags = s.channelFlags := rfl
@[simp] theorem globalMask_setLock (s : State) (l : Option Lock) : (s.setLock l).globalMask = s.globalMask := rfl
@[simp] theorem channelMask_setLock (s : State) (l : Option Lock) : (s.setLock l).channelMask = s.channelMask := rfl
@[simp] theorem mirror_setLock (s : State) (l : Option Lock) : (s.setLock l).mirror = s.mirror := rfl
@[simp] theorem commands_setLock (s : State) (l : Option Lock) : (s.setLock l).commands = s.commands := rfl
@[simp] theorem nextStamp_setLock (s : State) (l : Option Lock) : (s.setLock l).nextStamp = s.nextStamp := rfl
@[simp] theorem staging_setLock (s : State) (l : Option Lock) : (s.setLock l).staging = s.staging := rfl
@[simp] theorem ram_setLock (s : State) (l : Option Lock) : (s.setLock l).ram = s.ram := rfl
@[simp] theorem lanes_setLock (s : State) (l : Option Lock) : (s.setLock l).lanes = s.lanes := rfl
@[simp] theorem freeCount_setLock (s : State) (l : Option Lock) : (s.setLock l).freeCount = s.freeCount := rfl
@[simp] theorem pending_setLock (s : State) (l : Option Lock) : (s.setLock l).pending = s.pending := rfl

/-! ## setScrub -/

@[simp] theorem pinAsserted_setScrub (s : State) (x : Scrubber) : (s.setScrub x).pinAsserted = s.pinAsserted := rfl
@[simp] theorem device_setScrub (s : State) (x : Scrubber) : (s.setScrub x).device = s.device := rfl
@[simp] theorem resetCause_setScrub (s : State) (x : Scrubber) : (s.setScrub x).resetCause = s.resetCause := rfl
@[simp] theorem loadOutcome_setScrub (s : State) (x : Scrubber) : (s.setScrub x).loadOutcome = s.loadOutcome := rfl
@[simp] theorem failedChannel_setScrub (s : State) (x : Scrubber) : (s.setScrub x).failedChannel = s.failedChannel := rfl
@[simp] theorem loader_setScrub (s : State) (x : Scrubber) : (s.setScrub x).loader = s.loader := rfl
@[simp] theorem clockMHz_setScrub (s : State) (x : Scrubber) : (s.setScrub x).clockMHz = s.clockMHz := rfl
@[simp] theorem msCount_setScrub (s : State) (x : Scrubber) : (s.setScrub x).msCount = s.msCount := rfl
@[simp] theorem usInMs_setScrub (s : State) (x : Scrubber) : (s.setScrub x).usInMs = s.usInMs := rfl
@[simp] theorem ports_setScrub (s : State) (x : Scrubber) : (s.setScrub x).ports = s.ports := rfl
@[simp] theorem defaultAccess_setScrub (s : State) (x : Scrubber) : (s.setScrub x).defaultAccess = s.defaultAccess := rfl
@[simp] theorem bcbBase_setScrub (s : State) (x : Scrubber) : (s.setScrub x).bcbBase = s.bcbBase := rfl
@[simp] theorem regions_setScrub (s : State) (x : Scrubber) : (s.setScrub x).regions = s.regions := rfl
@[simp] theorem banks_setScrub (s : State) (x : Scrubber) : (s.setScrub x).banks = s.banks := rfl
@[simp] theorem timeoutReports_setScrub (s : State) (x : Scrubber) : (s.setScrub x).timeoutReports = s.timeoutReports := rfl
@[simp] theorem stormReports_setScrub (s : State) (x : Scrubber) : (s.setScrub x).stormReports = s.stormReports := rfl
@[simp] theorem channels_setScrub (s : State) (x : Scrubber) : (s.setScrub x).channels = s.channels := rfl
@[simp] theorem copy_setScrub (s : State) (x : Scrubber) : (s.setScrub x).copy = s.copy := rfl
@[simp] theorem arbiter_setScrub (s : State) (x : Scrubber) : (s.setScrub x).arbiter = s.arbiter := rfl
@[simp] theorem ecc_setScrub (s : State) (x : Scrubber) : (s.setScrub x).ecc = s.ecc := rfl
@[simp] theorem memCapture_setScrub (s : State) (x : Scrubber) : (s.setScrub x).memCapture = s.memCapture := rfl
@[simp] theorem globalFlags_setScrub (s : State) (x : Scrubber) : (s.setScrub x).globalFlags = s.globalFlags := rfl
@[simp] theorem channelFlags_setScrub (s : State) (x : Scrubber) : (s.setScrub x).channelFlags = s.channelFlags := rfl
@[simp] theorem globalMask_setScrub (s : State) (x : Scrubber) : (s.setScrub x).globalMask = s.globalMask := rfl
@[simp] theorem channelMask_setScrub (s : State) (x : Scrubber) : (s.setScrub x).channelMask = s.channelMask := rfl
@[simp] theorem mirror_setScrub (s : State) (x : Scrubber) : (s.setScrub x).mirror = s.mirror := rfl
@[simp] theorem commands_setScrub (s : State) (x : Scrubber) : (s.setScrub x).commands = s.commands := rfl
@[simp] theorem nextStamp_setScrub (s : State) (x : Scrubber) : (s.setScrub x).nextStamp = s.nextStamp := rfl
@[simp] theorem staging_setScrub (s : State) (x : Scrubber) : (s.setScrub x).staging = s.staging := rfl
@[simp] theorem ram_setScrub (s : State) (x : Scrubber) : (s.setScrub x).ram = s.ram := rfl
@[simp] theorem lanes_setScrub (s : State) (x : Scrubber) : (s.setScrub x).lanes = s.lanes := rfl
@[simp] theorem freeCount_setScrub (s : State) (x : Scrubber) : (s.setScrub x).freeCount = s.freeCount := rfl
@[simp] theorem pending_setScrub (s : State) (x : Scrubber) : (s.setScrub x).pending = s.pending := rfl

/-! ## setEngine -/

@[simp] theorem pinAsserted_setEngine (s : State) (e : EngineState) : (s.setEngine e).pinAsserted = s.pinAsserted := rfl
@[simp] theorem device_setEngine (s : State) (e : EngineState) : (s.setEngine e).device = s.device := rfl
@[simp] theorem resetCause_setEngine (s : State) (e : EngineState) : (s.setEngine e).resetCause = s.resetCause := rfl
@[simp] theorem loadOutcome_setEngine (s : State) (e : EngineState) : (s.setEngine e).loadOutcome = s.loadOutcome := rfl
@[simp] theorem failedChannel_setEngine (s : State) (e : EngineState) : (s.setEngine e).failedChannel = s.failedChannel := rfl
@[simp] theorem loader_setEngine (s : State) (e : EngineState) : (s.setEngine e).loader = s.loader := rfl
@[simp] theorem clockMHz_setEngine (s : State) (e : EngineState) : (s.setEngine e).clockMHz = s.clockMHz := rfl
@[simp] theorem msCount_setEngine (s : State) (e : EngineState) : (s.setEngine e).msCount = s.msCount := rfl
@[simp] theorem usInMs_setEngine (s : State) (e : EngineState) : (s.setEngine e).usInMs = s.usInMs := rfl
@[simp] theorem ports_setEngine (s : State) (e : EngineState) : (s.setEngine e).ports = s.ports := rfl
@[simp] theorem defaultAccess_setEngine (s : State) (e : EngineState) : (s.setEngine e).defaultAccess = s.defaultAccess := rfl
@[simp] theorem bcbBase_setEngine (s : State) (e : EngineState) : (s.setEngine e).bcbBase = s.bcbBase := rfl
@[simp] theorem regions_setEngine (s : State) (e : EngineState) : (s.setEngine e).regions = s.regions := rfl
@[simp] theorem banks_setEngine (s : State) (e : EngineState) : (s.setEngine e).banks = s.banks := rfl
@[simp] theorem timeoutReports_setEngine (s : State) (e : EngineState) : (s.setEngine e).timeoutReports = s.timeoutReports := rfl
@[simp] theorem stormReports_setEngine (s : State) (e : EngineState) : (s.setEngine e).stormReports = s.stormReports := rfl
@[simp] theorem channels_setEngine (s : State) (e : EngineState) : (s.setEngine e).channels = s.channels := rfl
@[simp] theorem arbiter_setEngine (s : State) (e : EngineState) : (s.setEngine e).arbiter = s.arbiter := rfl
@[simp] theorem ecc_setEngine (s : State) (e : EngineState) : (s.setEngine e).ecc = s.ecc := rfl
@[simp] theorem memCapture_setEngine (s : State) (e : EngineState) : (s.setEngine e).memCapture = s.memCapture := rfl
@[simp] theorem scrub_setEngine (s : State) (e : EngineState) : (s.setEngine e).scrub = s.scrub := rfl
@[simp] theorem globalFlags_setEngine (s : State) (e : EngineState) : (s.setEngine e).globalFlags = s.globalFlags := rfl
@[simp] theorem channelFlags_setEngine (s : State) (e : EngineState) : (s.setEngine e).channelFlags = s.channelFlags := rfl
@[simp] theorem globalMask_setEngine (s : State) (e : EngineState) : (s.setEngine e).globalMask = s.globalMask := rfl
@[simp] theorem channelMask_setEngine (s : State) (e : EngineState) : (s.setEngine e).channelMask = s.channelMask := rfl
@[simp] theorem mirror_setEngine (s : State) (e : EngineState) : (s.setEngine e).mirror = s.mirror := rfl
@[simp] theorem commands_setEngine (s : State) (e : EngineState) : (s.setEngine e).commands = s.commands := rfl
@[simp] theorem nextStamp_setEngine (s : State) (e : EngineState) : (s.setEngine e).nextStamp = s.nextStamp := rfl
@[simp] theorem staging_setEngine (s : State) (e : EngineState) : (s.setEngine e).staging = s.staging := rfl
@[simp] theorem ram_setEngine (s : State) (e : EngineState) : (s.setEngine e).ram = s.ram := rfl
@[simp] theorem lanes_setEngine (s : State) (e : EngineState) : (s.setEngine e).lanes = s.lanes := rfl
@[simp] theorem freeCount_setEngine (s : State) (e : EngineState) : (s.setEngine e).freeCount = s.freeCount := rfl
@[simp] theorem pending_setEngine (s : State) (e : EngineState) : (s.setEngine e).pending = s.pending := rfl

/-! ## setGlobalStage -/

@[simp] theorem pinAsserted_setGlobalStage (s : State) (l : Port) (n : Fin 9) (g : Stage) : (s.setGlobalStage l n g).pinAsserted = s.pinAsserted := rfl
@[simp] theorem device_setGlobalStage (s : State) (l : Port) (n : Fin 9) (g : Stage) : (s.setGlobalStage l n g).device = s.device := rfl
@[simp] theorem resetCause_setGlobalStage (s : State) (l : Port) (n : Fin 9) (g : Stage) : (s.setGlobalStage l n g).resetCause = s.resetCause := rfl
@[simp] theorem loadOutcome_setGlobalStage (s : State) (l : Port) (n : Fin 9) (g : Stage) : (s.setGlobalStage l n g).loadOutcome = s.loadOutcome := rfl
@[simp] theorem failedChannel_setGlobalStage (s : State) (l : Port) (n : Fin 9) (g : Stage) : (s.setGlobalStage l n g).failedChannel = s.failedChannel := rfl
@[simp] theorem loader_setGlobalStage (s : State) (l : Port) (n : Fin 9) (g : Stage) : (s.setGlobalStage l n g).loader = s.loader := rfl
@[simp] theorem clockMHz_setGlobalStage (s : State) (l : Port) (n : Fin 9) (g : Stage) : (s.setGlobalStage l n g).clockMHz = s.clockMHz := rfl
@[simp] theorem msCount_setGlobalStage (s : State) (l : Port) (n : Fin 9) (g : Stage) : (s.setGlobalStage l n g).msCount = s.msCount := rfl
@[simp] theorem usInMs_setGlobalStage (s : State) (l : Port) (n : Fin 9) (g : Stage) : (s.setGlobalStage l n g).usInMs = s.usInMs := rfl
@[simp] theorem ports_setGlobalStage (s : State) (l : Port) (n : Fin 9) (g : Stage) : (s.setGlobalStage l n g).ports = s.ports := rfl
@[simp] theorem defaultAccess_setGlobalStage (s : State) (l : Port) (n : Fin 9) (g : Stage) : (s.setGlobalStage l n g).defaultAccess = s.defaultAccess := rfl
@[simp] theorem bcbBase_setGlobalStage (s : State) (l : Port) (n : Fin 9) (g : Stage) : (s.setGlobalStage l n g).bcbBase = s.bcbBase := rfl
@[simp] theorem regions_setGlobalStage (s : State) (l : Port) (n : Fin 9) (g : Stage) : (s.setGlobalStage l n g).regions = s.regions := rfl
@[simp] theorem banks_setGlobalStage (s : State) (l : Port) (n : Fin 9) (g : Stage) : (s.setGlobalStage l n g).banks = s.banks := rfl
@[simp] theorem timeoutReports_setGlobalStage (s : State) (l : Port) (n : Fin 9) (g : Stage) : (s.setGlobalStage l n g).timeoutReports = s.timeoutReports := rfl
@[simp] theorem stormReports_setGlobalStage (s : State) (l : Port) (n : Fin 9) (g : Stage) : (s.setGlobalStage l n g).stormReports = s.stormReports := rfl
@[simp] theorem channels_setGlobalStage (s : State) (l : Port) (n : Fin 9) (g : Stage) : (s.setGlobalStage l n g).channels = s.channels := rfl
@[simp] theorem copy_setGlobalStage (s : State) (l : Port) (n : Fin 9) (g : Stage) : (s.setGlobalStage l n g).copy = s.copy := rfl
@[simp] theorem arbiter_setGlobalStage (s : State) (l : Port) (n : Fin 9) (g : Stage) : (s.setGlobalStage l n g).arbiter = s.arbiter := rfl
@[simp] theorem ecc_setGlobalStage (s : State) (l : Port) (n : Fin 9) (g : Stage) : (s.setGlobalStage l n g).ecc = s.ecc := rfl
@[simp] theorem memCapture_setGlobalStage (s : State) (l : Port) (n : Fin 9) (g : Stage) : (s.setGlobalStage l n g).memCapture = s.memCapture := rfl
@[simp] theorem scrub_setGlobalStage (s : State) (l : Port) (n : Fin 9) (g : Stage) : (s.setGlobalStage l n g).scrub = s.scrub := rfl
@[simp] theorem channelFlags_setGlobalStage (s : State) (l : Port) (n : Fin 9) (g : Stage) : (s.setGlobalStage l n g).channelFlags = s.channelFlags := rfl
@[simp] theorem globalMask_setGlobalStage (s : State) (l : Port) (n : Fin 9) (g : Stage) : (s.setGlobalStage l n g).globalMask = s.globalMask := rfl
@[simp] theorem channelMask_setGlobalStage (s : State) (l : Port) (n : Fin 9) (g : Stage) : (s.setGlobalStage l n g).channelMask = s.channelMask := rfl
@[simp] theorem mirror_setGlobalStage (s : State) (l : Port) (n : Fin 9) (g : Stage) : (s.setGlobalStage l n g).mirror = s.mirror := rfl
@[simp] theorem commands_setGlobalStage (s : State) (l : Port) (n : Fin 9) (g : Stage) : (s.setGlobalStage l n g).commands = s.commands := rfl
@[simp] theorem nextStamp_setGlobalStage (s : State) (l : Port) (n : Fin 9) (g : Stage) : (s.setGlobalStage l n g).nextStamp = s.nextStamp := rfl
@[simp] theorem staging_setGlobalStage (s : State) (l : Port) (n : Fin 9) (g : Stage) : (s.setGlobalStage l n g).staging = s.staging := rfl
@[simp] theorem ram_setGlobalStage (s : State) (l : Port) (n : Fin 9) (g : Stage) : (s.setGlobalStage l n g).ram = s.ram := rfl
@[simp] theorem lanes_setGlobalStage (s : State) (l : Port) (n : Fin 9) (g : Stage) : (s.setGlobalStage l n g).lanes = s.lanes := rfl
@[simp] theorem freeCount_setGlobalStage (s : State) (l : Port) (n : Fin 9) (g : Stage) : (s.setGlobalStage l n g).freeCount = s.freeCount := rfl
@[simp] theorem pending_setGlobalStage (s : State) (l : Port) (n : Fin 9) (g : Stage) : (s.setGlobalStage l n g).pending = s.pending := rfl

/-! ## setChannelStage -/

@[simp] theorem pinAsserted_setChannelStage (s : State) (c : ChanId) (n : Fin 7) (g : Stage) : (s.setChannelStage c n g).pinAsserted = s.pinAsserted := rfl
@[simp] theorem device_setChannelStage (s : State) (c : ChanId) (n : Fin 7) (g : Stage) : (s.setChannelStage c n g).device = s.device := rfl
@[simp] theorem resetCause_setChannelStage (s : State) (c : ChanId) (n : Fin 7) (g : Stage) : (s.setChannelStage c n g).resetCause = s.resetCause := rfl
@[simp] theorem loadOutcome_setChannelStage (s : State) (c : ChanId) (n : Fin 7) (g : Stage) : (s.setChannelStage c n g).loadOutcome = s.loadOutcome := rfl
@[simp] theorem failedChannel_setChannelStage (s : State) (c : ChanId) (n : Fin 7) (g : Stage) : (s.setChannelStage c n g).failedChannel = s.failedChannel := rfl
@[simp] theorem loader_setChannelStage (s : State) (c : ChanId) (n : Fin 7) (g : Stage) : (s.setChannelStage c n g).loader = s.loader := rfl
@[simp] theorem clockMHz_setChannelStage (s : State) (c : ChanId) (n : Fin 7) (g : Stage) : (s.setChannelStage c n g).clockMHz = s.clockMHz := rfl
@[simp] theorem msCount_setChannelStage (s : State) (c : ChanId) (n : Fin 7) (g : Stage) : (s.setChannelStage c n g).msCount = s.msCount := rfl
@[simp] theorem usInMs_setChannelStage (s : State) (c : ChanId) (n : Fin 7) (g : Stage) : (s.setChannelStage c n g).usInMs = s.usInMs := rfl
@[simp] theorem ports_setChannelStage (s : State) (c : ChanId) (n : Fin 7) (g : Stage) : (s.setChannelStage c n g).ports = s.ports := rfl
@[simp] theorem defaultAccess_setChannelStage (s : State) (c : ChanId) (n : Fin 7) (g : Stage) : (s.setChannelStage c n g).defaultAccess = s.defaultAccess := rfl
@[simp] theorem bcbBase_setChannelStage (s : State) (c : ChanId) (n : Fin 7) (g : Stage) : (s.setChannelStage c n g).bcbBase = s.bcbBase := rfl
@[simp] theorem regions_setChannelStage (s : State) (c : ChanId) (n : Fin 7) (g : Stage) : (s.setChannelStage c n g).regions = s.regions := rfl
@[simp] theorem banks_setChannelStage (s : State) (c : ChanId) (n : Fin 7) (g : Stage) : (s.setChannelStage c n g).banks = s.banks := rfl
@[simp] theorem timeoutReports_setChannelStage (s : State) (c : ChanId) (n : Fin 7) (g : Stage) : (s.setChannelStage c n g).timeoutReports = s.timeoutReports := rfl
@[simp] theorem stormReports_setChannelStage (s : State) (c : ChanId) (n : Fin 7) (g : Stage) : (s.setChannelStage c n g).stormReports = s.stormReports := rfl
@[simp] theorem channels_setChannelStage (s : State) (c : ChanId) (n : Fin 7) (g : Stage) : (s.setChannelStage c n g).channels = s.channels := rfl
@[simp] theorem copy_setChannelStage (s : State) (c : ChanId) (n : Fin 7) (g : Stage) : (s.setChannelStage c n g).copy = s.copy := rfl
@[simp] theorem arbiter_setChannelStage (s : State) (c : ChanId) (n : Fin 7) (g : Stage) : (s.setChannelStage c n g).arbiter = s.arbiter := rfl
@[simp] theorem ecc_setChannelStage (s : State) (c : ChanId) (n : Fin 7) (g : Stage) : (s.setChannelStage c n g).ecc = s.ecc := rfl
@[simp] theorem memCapture_setChannelStage (s : State) (c : ChanId) (n : Fin 7) (g : Stage) : (s.setChannelStage c n g).memCapture = s.memCapture := rfl
@[simp] theorem scrub_setChannelStage (s : State) (c : ChanId) (n : Fin 7) (g : Stage) : (s.setChannelStage c n g).scrub = s.scrub := rfl
@[simp] theorem globalFlags_setChannelStage (s : State) (c : ChanId) (n : Fin 7) (g : Stage) : (s.setChannelStage c n g).globalFlags = s.globalFlags := rfl
@[simp] theorem globalMask_setChannelStage (s : State) (c : ChanId) (n : Fin 7) (g : Stage) : (s.setChannelStage c n g).globalMask = s.globalMask := rfl
@[simp] theorem channelMask_setChannelStage (s : State) (c : ChanId) (n : Fin 7) (g : Stage) : (s.setChannelStage c n g).channelMask = s.channelMask := rfl
@[simp] theorem mirror_setChannelStage (s : State) (c : ChanId) (n : Fin 7) (g : Stage) : (s.setChannelStage c n g).mirror = s.mirror := rfl
@[simp] theorem commands_setChannelStage (s : State) (c : ChanId) (n : Fin 7) (g : Stage) : (s.setChannelStage c n g).commands = s.commands := rfl
@[simp] theorem nextStamp_setChannelStage (s : State) (c : ChanId) (n : Fin 7) (g : Stage) : (s.setChannelStage c n g).nextStamp = s.nextStamp := rfl
@[simp] theorem staging_setChannelStage (s : State) (c : ChanId) (n : Fin 7) (g : Stage) : (s.setChannelStage c n g).staging = s.staging := rfl
@[simp] theorem ram_setChannelStage (s : State) (c : ChanId) (n : Fin 7) (g : Stage) : (s.setChannelStage c n g).ram = s.ram := rfl
@[simp] theorem lanes_setChannelStage (s : State) (c : ChanId) (n : Fin 7) (g : Stage) : (s.setChannelStage c n g).lanes = s.lanes := rfl
@[simp] theorem freeCount_setChannelStage (s : State) (c : ChanId) (n : Fin 7) (g : Stage) : (s.setChannelStage c n g).freeCount = s.freeCount := rfl
@[simp] theorem pending_setChannelStage (s : State) (c : ChanId) (n : Fin 7) (g : Stage) : (s.setChannelStage c n g).pending = s.pending := rfl

/-! ## setProbe -/

@[simp] theorem pinAsserted_setProbe (s : State) (b : BankId) (q : Probe) : (s.setProbe b q).pinAsserted = s.pinAsserted := rfl
@[simp] theorem device_setProbe (s : State) (b : BankId) (q : Probe) : (s.setProbe b q).device = s.device := rfl
@[simp] theorem resetCause_setProbe (s : State) (b : BankId) (q : Probe) : (s.setProbe b q).resetCause = s.resetCause := rfl
@[simp] theorem loadOutcome_setProbe (s : State) (b : BankId) (q : Probe) : (s.setProbe b q).loadOutcome = s.loadOutcome := rfl
@[simp] theorem failedChannel_setProbe (s : State) (b : BankId) (q : Probe) : (s.setProbe b q).failedChannel = s.failedChannel := rfl
@[simp] theorem loader_setProbe (s : State) (b : BankId) (q : Probe) : (s.setProbe b q).loader = s.loader := rfl
@[simp] theorem clockMHz_setProbe (s : State) (b : BankId) (q : Probe) : (s.setProbe b q).clockMHz = s.clockMHz := rfl
@[simp] theorem msCount_setProbe (s : State) (b : BankId) (q : Probe) : (s.setProbe b q).msCount = s.msCount := rfl
@[simp] theorem usInMs_setProbe (s : State) (b : BankId) (q : Probe) : (s.setProbe b q).usInMs = s.usInMs := rfl
@[simp] theorem ports_setProbe (s : State) (b : BankId) (q : Probe) : (s.setProbe b q).ports = s.ports := rfl
@[simp] theorem defaultAccess_setProbe (s : State) (b : BankId) (q : Probe) : (s.setProbe b q).defaultAccess = s.defaultAccess := rfl
@[simp] theorem bcbBase_setProbe (s : State) (b : BankId) (q : Probe) : (s.setProbe b q).bcbBase = s.bcbBase := rfl
@[simp] theorem regions_setProbe (s : State) (b : BankId) (q : Probe) : (s.setProbe b q).regions = s.regions := rfl
@[simp] theorem timeoutReports_setProbe (s : State) (b : BankId) (q : Probe) : (s.setProbe b q).timeoutReports = s.timeoutReports := rfl
@[simp] theorem stormReports_setProbe (s : State) (b : BankId) (q : Probe) : (s.setProbe b q).stormReports = s.stormReports := rfl
@[simp] theorem channels_setProbe (s : State) (b : BankId) (q : Probe) : (s.setProbe b q).channels = s.channels := rfl
@[simp] theorem copy_setProbe (s : State) (b : BankId) (q : Probe) : (s.setProbe b q).copy = s.copy := rfl
@[simp] theorem arbiter_setProbe (s : State) (b : BankId) (q : Probe) : (s.setProbe b q).arbiter = s.arbiter := rfl
@[simp] theorem ecc_setProbe (s : State) (b : BankId) (q : Probe) : (s.setProbe b q).ecc = s.ecc := rfl
@[simp] theorem memCapture_setProbe (s : State) (b : BankId) (q : Probe) : (s.setProbe b q).memCapture = s.memCapture := rfl
@[simp] theorem scrub_setProbe (s : State) (b : BankId) (q : Probe) : (s.setProbe b q).scrub = s.scrub := rfl
@[simp] theorem globalFlags_setProbe (s : State) (b : BankId) (q : Probe) : (s.setProbe b q).globalFlags = s.globalFlags := rfl
@[simp] theorem channelFlags_setProbe (s : State) (b : BankId) (q : Probe) : (s.setProbe b q).channelFlags = s.channelFlags := rfl
@[simp] theorem globalMask_setProbe (s : State) (b : BankId) (q : Probe) : (s.setProbe b q).globalMask = s.globalMask := rfl
@[simp] theorem channelMask_setProbe (s : State) (b : BankId) (q : Probe) : (s.setProbe b q).channelMask = s.channelMask := rfl
@[simp] theorem mirror_setProbe (s : State) (b : BankId) (q : Probe) : (s.setProbe b q).mirror = s.mirror := rfl
@[simp] theorem commands_setProbe (s : State) (b : BankId) (q : Probe) : (s.setProbe b q).commands = s.commands := rfl
@[simp] theorem nextStamp_setProbe (s : State) (b : BankId) (q : Probe) : (s.setProbe b q).nextStamp = s.nextStamp := rfl
@[simp] theorem staging_setProbe (s : State) (b : BankId) (q : Probe) : (s.setProbe b q).staging = s.staging := rfl
@[simp] theorem ram_setProbe (s : State) (b : BankId) (q : Probe) : (s.setProbe b q).ram = s.ram := rfl
@[simp] theorem lanes_setProbe (s : State) (b : BankId) (q : Probe) : (s.setProbe b q).lanes = s.lanes := rfl
@[simp] theorem freeCount_setProbe (s : State) (b : BankId) (q : Probe) : (s.setProbe b q).freeCount = s.freeCount := rfl
@[simp] theorem pending_setProbe (s : State) (b : BankId) (q : Probe) : (s.setProbe b q).pending = s.pending := rfl

/-! ## occupy -/

@[simp] theorem pinAsserted_occupy (s : State) (op : BusyOp) : (s.occupy op).pinAsserted = s.pinAsserted := rfl
@[simp] theorem device_occupy (s : State) (op : BusyOp) : (s.occupy op).device = s.device := rfl
@[simp] theorem resetCause_occupy (s : State) (op : BusyOp) : (s.occupy op).resetCause = s.resetCause := rfl
@[simp] theorem loadOutcome_occupy (s : State) (op : BusyOp) : (s.occupy op).loadOutcome = s.loadOutcome := rfl
@[simp] theorem failedChannel_occupy (s : State) (op : BusyOp) : (s.occupy op).failedChannel = s.failedChannel := rfl
@[simp] theorem loader_occupy (s : State) (op : BusyOp) : (s.occupy op).loader = s.loader := rfl
@[simp] theorem clockMHz_occupy (s : State) (op : BusyOp) : (s.occupy op).clockMHz = s.clockMHz := rfl
@[simp] theorem msCount_occupy (s : State) (op : BusyOp) : (s.occupy op).msCount = s.msCount := rfl
@[simp] theorem usInMs_occupy (s : State) (op : BusyOp) : (s.occupy op).usInMs = s.usInMs := rfl
@[simp] theorem ports_occupy (s : State) (op : BusyOp) : (s.occupy op).ports = s.ports := rfl
@[simp] theorem defaultAccess_occupy (s : State) (op : BusyOp) : (s.occupy op).defaultAccess = s.defaultAccess := rfl
@[simp] theorem bcbBase_occupy (s : State) (op : BusyOp) : (s.occupy op).bcbBase = s.bcbBase := rfl
@[simp] theorem regions_occupy (s : State) (op : BusyOp) : (s.occupy op).regions = s.regions := rfl
@[simp] theorem banks_occupy (s : State) (op : BusyOp) : (s.occupy op).banks = s.banks := rfl
@[simp] theorem timeoutReports_occupy (s : State) (op : BusyOp) : (s.occupy op).timeoutReports = s.timeoutReports := rfl
@[simp] theorem stormReports_occupy (s : State) (op : BusyOp) : (s.occupy op).stormReports = s.stormReports := rfl
@[simp] theorem channels_occupy (s : State) (op : BusyOp) : (s.occupy op).channels = s.channels := rfl
@[simp] theorem copy_occupy (s : State) (op : BusyOp) : (s.occupy op).copy = s.copy := rfl
@[simp] theorem ecc_occupy (s : State) (op : BusyOp) : (s.occupy op).ecc = s.ecc := rfl
@[simp] theorem memCapture_occupy (s : State) (op : BusyOp) : (s.occupy op).memCapture = s.memCapture := rfl
@[simp] theorem scrub_occupy (s : State) (op : BusyOp) : (s.occupy op).scrub = s.scrub := rfl
@[simp] theorem globalFlags_occupy (s : State) (op : BusyOp) : (s.occupy op).globalFlags = s.globalFlags := rfl
@[simp] theorem channelFlags_occupy (s : State) (op : BusyOp) : (s.occupy op).channelFlags = s.channelFlags := rfl
@[simp] theorem globalMask_occupy (s : State) (op : BusyOp) : (s.occupy op).globalMask = s.globalMask := rfl
@[simp] theorem channelMask_occupy (s : State) (op : BusyOp) : (s.occupy op).channelMask = s.channelMask := rfl
@[simp] theorem mirror_occupy (s : State) (op : BusyOp) : (s.occupy op).mirror = s.mirror := rfl
@[simp] theorem commands_occupy (s : State) (op : BusyOp) : (s.occupy op).commands = s.commands := rfl
@[simp] theorem nextStamp_occupy (s : State) (op : BusyOp) : (s.occupy op).nextStamp = s.nextStamp := rfl
@[simp] theorem staging_occupy (s : State) (op : BusyOp) : (s.occupy op).staging = s.staging := rfl
@[simp] theorem ram_occupy (s : State) (op : BusyOp) : (s.occupy op).ram = s.ram := rfl
@[simp] theorem lanes_occupy (s : State) (op : BusyOp) : (s.occupy op).lanes = s.lanes := rfl
@[simp] theorem freeCount_occupy (s : State) (op : BusyOp) : (s.occupy op).freeCount = s.freeCount := rfl
@[simp] theorem pending_occupy (s : State) (op : BusyOp) : (s.occupy op).pending = s.pending := rfl

/-! ## markDirty -/

@[simp] theorem pinAsserted_markDirty (off : Nat) (s : State) : (markDirty off s).pinAsserted = s.pinAsserted := rfl
@[simp] theorem device_markDirty (off : Nat) (s : State) : (markDirty off s).device = s.device := rfl
@[simp] theorem resetCause_markDirty (off : Nat) (s : State) : (markDirty off s).resetCause = s.resetCause := rfl
@[simp] theorem loadOutcome_markDirty (off : Nat) (s : State) : (markDirty off s).loadOutcome = s.loadOutcome := rfl
@[simp] theorem failedChannel_markDirty (off : Nat) (s : State) : (markDirty off s).failedChannel = s.failedChannel := rfl
@[simp] theorem loader_markDirty (off : Nat) (s : State) : (markDirty off s).loader = s.loader := rfl
@[simp] theorem clockMHz_markDirty (off : Nat) (s : State) : (markDirty off s).clockMHz = s.clockMHz := rfl
@[simp] theorem msCount_markDirty (off : Nat) (s : State) : (markDirty off s).msCount = s.msCount := rfl
@[simp] theorem usInMs_markDirty (off : Nat) (s : State) : (markDirty off s).usInMs = s.usInMs := rfl
@[simp] theorem ports_markDirty (off : Nat) (s : State) : (markDirty off s).ports = s.ports := rfl
@[simp] theorem defaultAccess_markDirty (off : Nat) (s : State) : (markDirty off s).defaultAccess = s.defaultAccess := rfl
@[simp] theorem bcbBase_markDirty (off : Nat) (s : State) : (markDirty off s).bcbBase = s.bcbBase := rfl
@[simp] theorem regions_markDirty (off : Nat) (s : State) : (markDirty off s).regions = s.regions := rfl
@[simp] theorem banks_markDirty (off : Nat) (s : State) : (markDirty off s).banks = s.banks := rfl
@[simp] theorem timeoutReports_markDirty (off : Nat) (s : State) : (markDirty off s).timeoutReports = s.timeoutReports := rfl
@[simp] theorem stormReports_markDirty (off : Nat) (s : State) : (markDirty off s).stormReports = s.stormReports := rfl
@[simp] theorem channels_markDirty (off : Nat) (s : State) : (markDirty off s).channels = s.channels := rfl
@[simp] theorem copy_markDirty (off : Nat) (s : State) : (markDirty off s).copy = s.copy := rfl
@[simp] theorem arbiter_markDirty (off : Nat) (s : State) : (markDirty off s).arbiter = s.arbiter := rfl
@[simp] theorem ecc_markDirty (off : Nat) (s : State) : (markDirty off s).ecc = s.ecc := rfl
@[simp] theorem memCapture_markDirty (off : Nat) (s : State) : (markDirty off s).memCapture = s.memCapture := rfl
@[simp] theorem scrub_markDirty (off : Nat) (s : State) : (markDirty off s).scrub = s.scrub := rfl
@[simp] theorem globalFlags_markDirty (off : Nat) (s : State) : (markDirty off s).globalFlags = s.globalFlags := rfl
@[simp] theorem channelFlags_markDirty (off : Nat) (s : State) : (markDirty off s).channelFlags = s.channelFlags := rfl
@[simp] theorem globalMask_markDirty (off : Nat) (s : State) : (markDirty off s).globalMask = s.globalMask := rfl
@[simp] theorem channelMask_markDirty (off : Nat) (s : State) : (markDirty off s).channelMask = s.channelMask := rfl
@[simp] theorem commands_markDirty (off : Nat) (s : State) : (markDirty off s).commands = s.commands := rfl
@[simp] theorem nextStamp_markDirty (off : Nat) (s : State) : (markDirty off s).nextStamp = s.nextStamp := rfl
@[simp] theorem staging_markDirty (off : Nat) (s : State) : (markDirty off s).staging = s.staging := rfl
@[simp] theorem ram_markDirty (off : Nat) (s : State) : (markDirty off s).ram = s.ram := rfl
@[simp] theorem lanes_markDirty (off : Nat) (s : State) : (markDirty off s).lanes = s.lanes := rfl
@[simp] theorem freeCount_markDirty (off : Nat) (s : State) : (markDirty off s).freeCount = s.freeCount := rfl
@[simp] theorem pending_markDirty (off : Nat) (s : State) : (markDirty off s).pending = s.pending := rfl

/-! ## markAll -/

@[simp] theorem pinAsserted_markAll (offs : List Nat) (s : State) : (markAll offs s).pinAsserted = s.pinAsserted := rfl
@[simp] theorem device_markAll (offs : List Nat) (s : State) : (markAll offs s).device = s.device := rfl
@[simp] theorem resetCause_markAll (offs : List Nat) (s : State) : (markAll offs s).resetCause = s.resetCause := rfl
@[simp] theorem loadOutcome_markAll (offs : List Nat) (s : State) : (markAll offs s).loadOutcome = s.loadOutcome := rfl
@[simp] theorem failedChannel_markAll (offs : List Nat) (s : State) : (markAll offs s).failedChannel = s.failedChannel := rfl
@[simp] theorem loader_markAll (offs : List Nat) (s : State) : (markAll offs s).loader = s.loader := rfl
@[simp] theorem clockMHz_markAll (offs : List Nat) (s : State) : (markAll offs s).clockMHz = s.clockMHz := rfl
@[simp] theorem msCount_markAll (offs : List Nat) (s : State) : (markAll offs s).msCount = s.msCount := rfl
@[simp] theorem usInMs_markAll (offs : List Nat) (s : State) : (markAll offs s).usInMs = s.usInMs := rfl
@[simp] theorem ports_markAll (offs : List Nat) (s : State) : (markAll offs s).ports = s.ports := rfl
@[simp] theorem defaultAccess_markAll (offs : List Nat) (s : State) : (markAll offs s).defaultAccess = s.defaultAccess := rfl
@[simp] theorem bcbBase_markAll (offs : List Nat) (s : State) : (markAll offs s).bcbBase = s.bcbBase := rfl
@[simp] theorem regions_markAll (offs : List Nat) (s : State) : (markAll offs s).regions = s.regions := rfl
@[simp] theorem banks_markAll (offs : List Nat) (s : State) : (markAll offs s).banks = s.banks := rfl
@[simp] theorem timeoutReports_markAll (offs : List Nat) (s : State) : (markAll offs s).timeoutReports = s.timeoutReports := rfl
@[simp] theorem stormReports_markAll (offs : List Nat) (s : State) : (markAll offs s).stormReports = s.stormReports := rfl
@[simp] theorem channels_markAll (offs : List Nat) (s : State) : (markAll offs s).channels = s.channels := rfl
@[simp] theorem copy_markAll (offs : List Nat) (s : State) : (markAll offs s).copy = s.copy := rfl
@[simp] theorem arbiter_markAll (offs : List Nat) (s : State) : (markAll offs s).arbiter = s.arbiter := rfl
@[simp] theorem ecc_markAll (offs : List Nat) (s : State) : (markAll offs s).ecc = s.ecc := rfl
@[simp] theorem memCapture_markAll (offs : List Nat) (s : State) : (markAll offs s).memCapture = s.memCapture := rfl
@[simp] theorem scrub_markAll (offs : List Nat) (s : State) : (markAll offs s).scrub = s.scrub := rfl
@[simp] theorem globalFlags_markAll (offs : List Nat) (s : State) : (markAll offs s).globalFlags = s.globalFlags := rfl
@[simp] theorem channelFlags_markAll (offs : List Nat) (s : State) : (markAll offs s).channelFlags = s.channelFlags := rfl
@[simp] theorem globalMask_markAll (offs : List Nat) (s : State) : (markAll offs s).globalMask = s.globalMask := rfl
@[simp] theorem channelMask_markAll (offs : List Nat) (s : State) : (markAll offs s).channelMask = s.channelMask := rfl
@[simp] theorem commands_markAll (offs : List Nat) (s : State) : (markAll offs s).commands = s.commands := rfl
@[simp] theorem nextStamp_markAll (offs : List Nat) (s : State) : (markAll offs s).nextStamp = s.nextStamp := rfl
@[simp] theorem staging_markAll (offs : List Nat) (s : State) : (markAll offs s).staging = s.staging := rfl
@[simp] theorem ram_markAll (offs : List Nat) (s : State) : (markAll offs s).ram = s.ram := rfl
@[simp] theorem lanes_markAll (offs : List Nat) (s : State) : (markAll offs s).lanes = s.lanes := rfl
@[simp] theorem freeCount_markAll (offs : List Nat) (s : State) : (markAll offs s).freeCount = s.freeCount := rfl
@[simp] theorem pending_markAll (offs : List Nat) (s : State) : (markAll offs s).pending = s.pending := rfl

/-! ## settle -/

@[simp] theorem pinAsserted_settle (s t : State) : (settle s t).pinAsserted = t.pinAsserted := rfl
@[simp] theorem device_settle (s t : State) : (settle s t).device = t.device := rfl
@[simp] theorem resetCause_settle (s t : State) : (settle s t).resetCause = t.resetCause := rfl
@[simp] theorem loadOutcome_settle (s t : State) : (settle s t).loadOutcome = t.loadOutcome := rfl
@[simp] theorem failedChannel_settle (s t : State) : (settle s t).failedChannel = t.failedChannel := rfl
@[simp] theorem loader_settle (s t : State) : (settle s t).loader = t.loader := rfl
@[simp] theorem clockMHz_settle (s t : State) : (settle s t).clockMHz = t.clockMHz := rfl
@[simp] theorem msCount_settle (s t : State) : (settle s t).msCount = t.msCount := rfl
@[simp] theorem usInMs_settle (s t : State) : (settle s t).usInMs = t.usInMs := rfl
@[simp] theorem ports_settle (s t : State) : (settle s t).ports = t.ports := rfl
@[simp] theorem defaultAccess_settle (s t : State) : (settle s t).defaultAccess = t.defaultAccess := rfl
@[simp] theorem bcbBase_settle (s t : State) : (settle s t).bcbBase = t.bcbBase := rfl
@[simp] theorem regions_settle (s t : State) : (settle s t).regions = t.regions := rfl
@[simp] theorem banks_settle (s t : State) : (settle s t).banks = t.banks := rfl
@[simp] theorem timeoutReports_settle (s t : State) : (settle s t).timeoutReports = t.timeoutReports := rfl
@[simp] theorem stormReports_settle (s t : State) : (settle s t).stormReports = t.stormReports := rfl
@[simp] theorem channels_settle (s t : State) : (settle s t).channels = t.channels := rfl
@[simp] theorem copy_settle (s t : State) : (settle s t).copy = t.copy := rfl
@[simp] theorem arbiter_settle (s t : State) : (settle s t).arbiter = t.arbiter := rfl
@[simp] theorem ecc_settle (s t : State) : (settle s t).ecc = t.ecc := rfl
@[simp] theorem memCapture_settle (s t : State) : (settle s t).memCapture = t.memCapture := rfl
@[simp] theorem scrub_settle (s t : State) : (settle s t).scrub = t.scrub := rfl
@[simp] theorem globalFlags_settle (s t : State) : (settle s t).globalFlags = t.globalFlags := rfl
@[simp] theorem channelFlags_settle (s t : State) : (settle s t).channelFlags = t.channelFlags := rfl
@[simp] theorem globalMask_settle (s t : State) : (settle s t).globalMask = t.globalMask := rfl
@[simp] theorem channelMask_settle (s t : State) : (settle s t).channelMask = t.channelMask := rfl
@[simp] theorem commands_settle (s t : State) : (settle s t).commands = t.commands := rfl
@[simp] theorem nextStamp_settle (s t : State) : (settle s t).nextStamp = t.nextStamp := rfl
@[simp] theorem staging_settle (s t : State) : (settle s t).staging = t.staging := rfl
@[simp] theorem ram_settle (s t : State) : (settle s t).ram = t.ram := rfl
@[simp] theorem lanes_settle (s t : State) : (settle s t).lanes = t.lanes := rfl
@[simp] theorem freeCount_settle (s t : State) : (settle s t).freeCount = t.freeCount := rfl
@[simp] theorem pending_settle (s t : State) : (settle s t).pending = t.pending := rfl
@[simp] theorem mirror_last_settle (s t : State) : (settle s t).mirror.last = t.mirror.last := rfl
@[simp] theorem mirror_request_settle (s t : State) : (settle s t).mirror.request = t.mirror.request := rfl

end Sys2Proof.Machine
end

