-- ==== Sys2Proof/Laws/Memory.lean ====
section
/-! SUPPORT. Sparse memory: every write keeps the canonical form, and what a read gives after a write. -/

namespace Sys2Proof.Machine

open Sys2Proof

/-! ## Cells -/

/-- Every key of a list is above a bound. -/
def keysAbove {w : Nat} (k : Nat) (m : List (Nat × BitVec w)) : Prop :=
  ∀ e ∈ m, k < e.1

theorem wf_cons {w : Nat} {k : Nat} {v : BitVec w} {rest : List (Nat × BitVec w)} :
    Memory.wf ((k, v) :: rest) = true ↔ v ≠ 0 ∧ keysAbove k rest ∧ Memory.wf rest = true := by
  simp [Memory.wf, keysAbove, and_assoc]

theorem keysAbove_cellWrite {w : Nat} {k a : Nat} {x : BitVec w} (hk : k < a) :
    ∀ {m : List (Nat × BitVec w)}, keysAbove k m → keysAbove k (cellWrite m a x) := by
  intro m
  induction m with
  | nil =>
    intro _
    unfold cellWrite
    split <;> simp [keysAbove, hk]
  | cons e rest ih =>
    obtain ⟨j, v⟩ := e
    intro hm
    have hj : k < j := hm (j, v) (List.mem_cons_self ..)
    have hr : keysAbove k rest := fun e he => hm e (List.mem_cons_of_mem _ he)
    unfold cellWrite
    split
    · split
      · exact hm
      · intro e he
        rcases List.mem_cons.1 he with rfl | he
        · exact hk
        · exact hm e he
    · split
      · split
        · exact hr
        · intro e he
          rcases List.mem_cons.1 he with rfl | he
          · exact hk
          · exact hr e he
      · intro e he
        rcases List.mem_cons.1 he with rfl | he
        · exact hj
        · exact ih hr e he

/-- Writing a cell keeps the canonical form. -/
theorem wf_cellWrite {w : Nat} {a : Nat} {x : BitVec w} :
    ∀ {m : List (Nat × BitVec w)}, Memory.wf m = true → Memory.wf (cellWrite m a x) = true := by
  intro m
  induction m with
  | nil =>
    intro _
    unfold cellWrite
    split
    · rfl
    · rename_i h
      exact wf_cons.2 ⟨h, fun e he => by simp at he, rfl⟩
  | cons e rest ih =>
    obtain ⟨j, v⟩ := e
    intro hm
    obtain ⟨hv, hk, hr⟩ := wf_cons.1 hm
    unfold cellWrite
    split
    · rename_i hlt
      split
      · exact hm
      · rename_i hx
        refine wf_cons.2 ⟨hx, fun e he => ?_, hm⟩
        rcases List.mem_cons.1 he with rfl | he
        · exact hlt
        · exact Nat.lt_trans hlt (hk e he)
    · rename_i hlt
      split
      · rename_i he
        subst he
        split
        · exact hr
        · rename_i hx
          exact wf_cons.2 ⟨hx, hk, hr⟩
      · rename_i hne
        have hja : j < a := by omega
        exact wf_cons.2 ⟨hv, keysAbove_cellWrite hja hk, ih hr⟩

theorem cellRead_of_keysAbove {w : Nat} {a : Nat} :
    ∀ {m : List (Nat × BitVec w)}, keysAbove a m → cellRead m a = 0 := by
  intro m
  induction m with
  | nil => intro _; rfl
  | cons e rest ih =>
    obtain ⟨j, v⟩ := e
    intro hm
    have hj : a < j := hm (j, v) (List.mem_cons_self ..)
    have hne : ¬ j = a := by omega
    simp only [cellRead, if_neg hne]
    exact ih (fun e he => hm e (List.mem_cons_of_mem _ he))

/-- A cell reads as it was written. -/
theorem cellRead_cellWrite_same {w : Nat} {a : Nat} {x : BitVec w} :
    ∀ {m : List (Nat × BitVec w)}, Memory.wf m = true → cellRead (cellWrite m a x) a = x := by
  intro m
  induction m with
  | nil =>
    intro _
    unfold cellWrite
    split
    · rename_i h; simp [cellRead, h]
    · simp [cellRead]
  | cons e rest ih =>
    obtain ⟨j, v⟩ := e
    intro hm
    obtain ⟨hv, hk, hr⟩ := wf_cons.1 hm
    unfold cellWrite
    split
    · rename_i hlt
      split
      · rename_i hx
        have hne : ¬ j = a := by omega
        simp only [cellRead, if_neg hne, hx]
        exact cellRead_of_keysAbove (fun e he => Nat.lt_trans hlt (hk e he))
      · simp [cellRead]
    · rename_i hlt
      split
      · rename_i he
        subst he
        split
        · rename_i hx; rw [cellRead_of_keysAbove hk, hx]
        · simp [cellRead]
      · rename_i hne
        have hne' : ¬ j = a := fun h => hne h.symm
        simp only [cellRead, if_neg hne']
        exact ih hr

/-- Every other cell reads as before. -/
theorem cellRead_cellWrite_ne {w : Nat} {a b : Nat} {x : BitVec w} (h : b ≠ a) :
    ∀ (m : List (Nat × BitVec w)), cellRead (cellWrite m a x) b = cellRead m b := by
  intro m
  induction m with
  | nil =>
    unfold cellWrite
    split
    · rfl
    · have : ¬ a = b := fun e => h e.symm
      simp [cellRead, this]
  | cons e rest ih =>
    obtain ⟨j, v⟩ := e
    have hab : ¬ a = b := fun e => h e.symm
    unfold cellWrite
    split
    · split
      · rfl
      · simp [cellRead, hab]
    · split
      · rename_i he
        subst he
        split <;> simp [cellRead, hab]
      · simp only [cellRead]
        split
        · rfl
        · exact ih

/-! ## Words -/

theorem wf_wordWrite {m : List (Nat × BitVec 8)} {a : Nat} {v : Word} (h : Memory.wf m = true) :
    Memory.wf (wordWrite m a v) = true :=
  wf_cellWrite (wf_cellWrite (wf_cellWrite (wf_cellWrite h)))

/-- A byte outside a stored word reads as before. -/
theorem cellRead_wordWrite_outside {m : List (Nat × BitVec 8)} {a b : Nat} {v : Word} (h : b < a ∨ a + 4 ≤ b) :
    cellRead (wordWrite m a v) b = cellRead m b := by
  unfold wordWrite
  rw [cellRead_cellWrite_ne (by omega), cellRead_cellWrite_ne (by omega), cellRead_cellWrite_ne (by omega),
    cellRead_cellWrite_ne (by omega)]

theorem cellRead_wordWrite_0 {m : List (Nat × BitVec 8)} {a : Nat} {v : Word} (h : Memory.wf m = true) :
    cellRead (wordWrite m a v) a = byteOf v 0 := by
  unfold wordWrite
  rw [cellRead_cellWrite_ne (by omega), cellRead_cellWrite_ne (by omega), cellRead_cellWrite_ne (by omega),
    cellRead_cellWrite_same h]

theorem cellRead_wordWrite_1 {m : List (Nat × BitVec 8)} {a : Nat} {v : Word} (h : Memory.wf m = true) :
    cellRead (wordWrite m a v) (a + 1) = byteOf v 1 := by
  unfold wordWrite
  rw [cellRead_cellWrite_ne (by omega), cellRead_cellWrite_ne (by omega),
    cellRead_cellWrite_same (wf_cellWrite h)]

theorem cellRead_wordWrite_2 {m : List (Nat × BitVec 8)} {a : Nat} {v : Word} (h : Memory.wf m = true) :
    cellRead (wordWrite m a v) (a + 2) = byteOf v 2 := by
  unfold wordWrite
  rw [cellRead_cellWrite_ne (by omega), cellRead_cellWrite_same (wf_cellWrite (wf_cellWrite h))]

theorem cellRead_wordWrite_3 {m : List (Nat × BitVec 8)} {a : Nat} {v : Word} (h : Memory.wf m = true) :
    cellRead (wordWrite m a v) (a + 3) = byteOf v 3 := by
  unfold wordWrite
  rw [cellRead_cellWrite_same (wf_cellWrite (wf_cellWrite (wf_cellWrite h)))]

/-- A word is put together again from its four bytes. -/
theorem wordOfBytes_byteOf (v : Word) :
    wordOfBytes (byteOf v 0) (byteOf v 1) (byteOf v 2) (byteOf v 3) = v := by
  apply BitVec.eq_of_toNat_eq
  have hv := v.isLt
  simp only [wordOfBytes, byteOf, BitVec.toNat_ofNat]
  omega

/-- A word reads as it was written. -/
theorem wordRead_wordWrite_same {m : List (Nat × BitVec 8)} {a : Nat} {v : Word} (h : Memory.wf m = true) :
    wordRead (wordWrite m a v) a = v := by
  unfold wordRead
  rw [cellRead_wordWrite_0 h, cellRead_wordWrite_1 h, cellRead_wordWrite_2 h, cellRead_wordWrite_3 h,
    wordOfBytes_byteOf]

/-- A word that shares no byte with the stored one reads as before. -/
theorem wordRead_wordWrite_apart {m : List (Nat × BitVec 8)} {a b : Nat} {v : Word} (h : b + 4 ≤ a ∨ a + 4 ≤ b) :
    wordRead (wordWrite m a v) b = wordRead m b := by
  unfold wordRead
  rw [cellRead_wordWrite_outside (by omega), cellRead_wordWrite_outside (by omega),
    cellRead_wordWrite_outside (by omega), cellRead_wordWrite_outside (by omega)]

/-! ## The memory operations of the state -/

/-- A full-word write changes the two parts of the memory and nothing else. -/
theorem storeWord_only (b : BankId) (addr : Nat) (v : Word) (s : State) :
    storeWord b addr v s = { s with ram := (storeWord b addr v s).ram, lanes := (storeWord b addr v s).lanes } := rfl

theorem storePoison_only (addr : Nat) (v : Word) (s : State) :
    storePoison addr v s = { s with ram := (storePoison addr v s).ram, lanes := (storePoison addr v s).lanes } := rfl

theorem storeBytes_only (addr : Nat) (v : Word) (s : State) :
    storeBytes addr v s = { s with ram := (storeBytes addr v s).ram } := rfl

theorem canonical_storeWord {b : BankId} {addr : Nat} {v : Word} {s : State} (h : memoryCanonical s) :
    memoryCanonical (storeWord b addr v s) := by
  refine ⟨wf_wordWrite h.1, ?_⟩
  simp only [storeWord]
  split
  · exact wf_cellWrite h.2
  · exact h.2

theorem canonical_storePoison {addr : Nat} {v : Word} {s : State} (h : memoryCanonical s) :
    memoryCanonical (storePoison addr v s) :=
  ⟨wf_wordWrite h.1, wf_cellWrite h.2⟩

theorem canonical_storeBytes {addr : Nat} {v : Word} {s : State} (h : memoryCanonical s) :
    memoryCanonical (storeBytes addr v s) :=
  ⟨wf_wordWrite h.1, h.2⟩

/-- The memory right after reset is in canonical form. -/
theorem canonical_reset : memoryCanonical State.reset := ⟨rfl, rfl⟩

end Sys2Proof.Machine
end

