-- ==== Sys2Proof/Laws/Ops.lean ====
section
/-! SUPPORT. What each shared operation can touch: the fields named, and nothing else. -/

namespace Sys2Proof.Machine

open Sys2Proof

/-! ## Flags -/

theorem raiseGlobal_touches (l : Port) (f : GlobalFlag) (s : State) :
    ∃ g, raiseGlobal l f s = { s with globalFlags := g } := by
  unfold raiseGlobal
  split
  · exact ⟨_, rfl⟩
  · exact ⟨s.globalFlags, rfl⟩

theorem raiseBoth_touches (f : GlobalFlag) (s : State) : ∃ g, raiseBoth f s = { s with globalFlags := g } := by
  unfold raiseBoth
  obtain ⟨g, h⟩ := raiseGlobal_touches .port0 f s
  rw [h]
  exact raiseGlobal_touches .port1 f _

theorem raiseChannel_touches (c : ChanId) (f : ChannelFlag) (s : State) :
    ∃ g, raiseChannel c f s = { s with channelFlags := g } := by
  unfold raiseChannel
  split
  · exact ⟨_, rfl⟩
  · exact ⟨s.channelFlags, rfl⟩

/-- Clearing a flag can only take bits off a mirror write in flight: the dirty set stays. -/
theorem dropCarried_touches (off bit : Nat) (s : State) :
    ∃ q, dropCarried off bit s = { s with mirror := { s.mirror with request := q } } := by
  unfold dropCarried
  split
  · split
    · exact ⟨_, rfl⟩
    · exact ⟨s.mirror.request, rfl⟩
  · exact ⟨s.mirror.request, rfl⟩
  · exact ⟨s.mirror.request, rfl⟩
  · exact ⟨s.mirror.request, rfl⟩

theorem clearGlobal_touches (l : Port) (n : Fin 9) (s : State) :
    ∃ g q, clearGlobal l n s = { s with globalFlags := g, mirror := { s.mirror with request := q } } := by
  unfold clearGlobal
  obtain ⟨q, h⟩ := dropCarried_touches (globalFlagOffset l) n.val (s.setGlobalStage l n .clear)
  exact ⟨_, q, h⟩

theorem clearChannelFlag_touches (c : ChanId) (n : Fin 7) (s : State) :
    ∃ g q, clearChannelFlag c n s = { s with channelFlags := g, mirror := { s.mirror with request := q } } := by
  unfold clearChannelFlag
  obtain ⟨q, h⟩ := dropCarried_touches (channelFlagOffset c) n.val (s.setChannelStage c n .clear)
  exact ⟨_, q, h⟩

/-- A step repeated over a list touches what one round touches. -/
theorem foldl_touches {α : Type} (f : State → α → State) (P : State → State → Prop) (hrefl : ∀ s, P s s)
    (htrans : ∀ s t u, P s t → P t u → P s u) (hf : ∀ s x, P s (f s x)) :
    ∀ (l : List α) (s : State), P s (l.foldl f s) := by
  intro l
  induction l with
  | nil => exact hrefl
  | cons x xs ih => exact fun s => htrans _ _ _ (hf s x) (ih _)

theorem clearChannelFlags_touches (c : ChanId) (s : State) :
    ∃ g q, clearChannelFlags c s = { s with channelFlags := g, mirror := { s.mirror with request := q } } := by
  unfold clearChannelFlags
  refine foldl_touches (fun t n => clearChannelFlag c n t)
    (fun s t => ∃ g q, t = { s with channelFlags := g, mirror := { s.mirror with request := q } })
    (fun s => ⟨s.channelFlags, s.mirror.request, rfl⟩) ?_ (fun s n => clearChannelFlag_touches c n s) _ s
  rintro s t u ⟨g, q, rfl⟩ ⟨g', q', rfl⟩
  exact ⟨g', q', rfl⟩

theorem ackGlobal_touches (l : Port) (w : Word) (s : State) :
    ∃ g q, ackGlobal l w s = { s with globalFlags := g, mirror := { s.mirror with request := q } } := by
  unfold ackGlobal
  refine foldl_touches (fun t n => ackGlobalBit l w n t)
    (fun s t => ∃ g q, t = { s with globalFlags := g, mirror := { s.mirror with request := q } })
    (fun s => ⟨s.globalFlags, s.mirror.request, rfl⟩) ?_ ?_ _ s
  · rintro s t u ⟨g, q, rfl⟩ ⟨g', q', rfl⟩
    exact ⟨g', q', rfl⟩
  · intro s n
    unfold ackGlobalBit
    split
    · exact clearGlobal_touches l n s
    · exact ⟨s.globalFlags, s.mirror.request, rfl⟩

theorem ackChannel_touches (w : Word) (s : State) :
    ∃ g q, ackChannel w s = { s with channelFlags := g, mirror := { s.mirror with request := q } } := by
  unfold ackChannel
  split
  · dsimp only
    split
    · refine foldl_touches (fun t n => ackChannelBit _ w n t)
        (fun s t => ∃ g q, t = { s with channelFlags := g, mirror := { s.mirror with request := q } })
        (fun s => ⟨s.channelFlags, s.mirror.request, rfl⟩) ?_ ?_ _ s
      · rintro s t u ⟨g, q, rfl⟩ ⟨g', q', rfl⟩
        exact ⟨g', q', rfl⟩
      · intro s n
        unfold ackChannelBit
        split
        · exact clearChannelFlag_touches _ n s
        · exact ⟨s.channelFlags, s.mirror.request, rfl⟩
    · exact ⟨s.channelFlags, s.mirror.request, rfl⟩
  · exact ⟨s.channelFlags, s.mirror.request, rfl⟩

theorem postFlags_touches (off : Nat) (carried : List Nat) (s : State) :
    ∃ g h, postFlags off carried s = { s with globalFlags := g, channelFlags := h } := by
  have trans : ∀ s t u : State, (∃ g h, t = { s with globalFlags := g, channelFlags := h }) →
      (∃ g h, u = { t with globalFlags := g, channelFlags := h }) →
      ∃ g h, u = { s with globalFlags := g, channelFlags := h } := by
    rintro s t u ⟨g, h, rfl⟩ ⟨g', h', rfl⟩
    exact ⟨g', h', rfl⟩
  have one : ∀ (l : Port) (s : State) (n : Fin 9),
      ∃ g h, postGlobalBit l carried n s = { s with globalFlags := g, channelFlags := h } := by
    intro l s n
    unfold postGlobalBit
    split
    · exact ⟨_, s.channelFlags, rfl⟩
    · exact ⟨s.globalFlags, s.channelFlags, rfl⟩
  have two : ∀ (c : ChanId) (s : State) (n : Fin 7),
      ∃ g h, postChannelBit c carried n s = { s with globalFlags := g, channelFlags := h } := by
    intro c s n
    unfold postChannelBit
    split
    · exact ⟨s.globalFlags, _, rfl⟩
    · exact ⟨s.globalFlags, s.channelFlags, rfl⟩
  unfold postFlags
  split
  · exact foldl_touches (fun t n => postGlobalBit .port0 carried n t) _
      (fun s => ⟨s.globalFlags, s.channelFlags, rfl⟩) trans (one _) _ s
  · split
    · exact foldl_touches (fun t n => postGlobalBit .port1 carried n t) _
        (fun s => ⟨s.globalFlags, s.channelFlags, rfl⟩) trans (one _) _ s
    · split
      · exact foldl_touches (fun t n => postChannelBit _ carried n t) _
          (fun s => ⟨s.globalFlags, s.channelFlags, rfl⟩) trans (two _) _ s
      · exact ⟨s.globalFlags, s.channelFlags, rfl⟩

/-! ## Answers -/

theorem faultEffects_touches (p : Port) (r : PortFault) (s : State) :
    ∃ x g, faultEffects p r s = { s with ports := x, globalFlags := g } := by
  unfold faultEffects
  obtain ⟨g, h⟩ := raiseGlobal_touches p .accessFault
    (s.setPort p { s.port p with
      faultCount := satInc (s.port p).faultCount
      capture := offerFault (s.port p).capture r })
  exact ⟨_, g, h⟩

theorem giveAnswer_touches (p : Port) (a : Access) (ans : Answer) (addr : BitVec 24) (locked : Bool) (s : State) :
    ∃ x g, giveAnswer p a ans addr locked s = { s with ports := x, globalFlags := g } := by
  unfold giveAnswer
  dsimp only
  split
  · exact ⟨_, s.globalFlags, rfl⟩
  · split
    · exact ⟨_, s.globalFlags, rfl⟩
    · obtain ⟨x, g, h⟩ := faultEffects_touches p (faultRecord a addr locked _ s.msCount)
        (s.setPort p { s.port p with phase := .idle, hold := .stopped, answer := some ans })
      exact ⟨x, g, h⟩

theorem answerFault_touches (p : Port) (a : Access) (f : FaultCode) (s : State) :
    ∃ x g, answerFault p a f s = { s with ports := x, globalFlags := g } :=
  giveAnswer_touches ..

theorem answerOkay_touches (p : Port) (a : Access) (s : State) :
    ∃ x g, answerOkay p a s = { s with ports := x, globalFlags := g } :=
  giveAnswer_touches ..

theorem answerZero_touches (p : Port) (a : Access) (s : State) :
    ∃ x g, answerZero p a s = { s with ports := x, globalFlags := g } :=
  giveAnswer_touches ..

/-! ## Read accesses -/

theorem countCorrected_touches (s : State) : ∃ e g, countCorrected s = { s with ecc := e, globalFlags := g } := by
  unfold countCorrected
  obtain ⟨g, h⟩ := raiseBoth_touches .eccCorrected { s with ecc := { s.ecc with corrected := satInc s.ecc.corrected } }
  exact ⟨_, g, h⟩

theorem countUncorrectable_touches (src : Source) (b : BankId) (addr : Nat) (s : State) :
    ∃ k e m r g, countUncorrectable src b addr s =
      { s with banks := k, ecc := e, memCapture := m, stormReports := r, globalFlags := g } := by
  unfold countUncorrectable
  dsimp only
  obtain ⟨g, h⟩ := raiseBoth_touches .eccUncorrectable
    { s.setBank b { s.bank b with ueCount := satInc (s.bank b).ueCount } with
      ecc := { s.ecc with uncorrectable := satInc s.ecc.uncorrectable }
      memCapture := offerMemFault s.memCapture ⟨addr, b, src, s.msCount⟩
      stormReports := if stormReached s b then s.stormReports ++ [b] else s.stormReports }
  exact ⟨_, _, _, _, g, h⟩

theorem countPoisoned_touches (src : Source) (s : State) :
    ∃ e g, countPoisoned src s = { s with ecc := e, globalFlags := g } := by
  unfold countPoisoned
  have h := raiseBoth_touches .poisonRead { s with ecc := { s.ecc with poisonReads := satInc s.ecc.poisonReads } }
  obtain ⟨g, h⟩ := h
  split
  · exact ⟨_, g, h⟩
  · exact ⟨_, g, h⟩
  · exact ⟨s.ecc, s.globalFlags, rfl⟩
  · exact ⟨s.ecc, s.globalFlags, rfl⟩
  · exact ⟨s.ecc, s.globalFlags, rfl⟩

/-- What a word access can touch: the memory, the counts of the check unit and the flags it raises. -/
def CheckTouch (s t : State) : Prop :=
  ∃ m l k e c r g, t =
    { s with ram := m, lanes := l, banks := k, ecc := e, memCapture := c, stormReports := r, globalFlags := g }

theorem CheckTouch.refl (s : State) : CheckTouch s s :=
  ⟨s.ram, s.lanes, s.banks, s.ecc, s.memCapture, s.stormReports, s.globalFlags, rfl⟩

theorem CheckTouch.trans {s t u : State} (h : CheckTouch s t) (h' : CheckTouch t u) : CheckTouch s u := by
  obtain ⟨m, l, k, e, c, r, g, rfl⟩ := h
  obtain ⟨m', l', k', e', c', r', g', rfl⟩ := h'
  exact ⟨m', l', k', e', c', r', g', rfl⟩

theorem CheckTouch.store (b : BankId) (addr : Nat) (v : Word) (s : State) : CheckTouch s (storeWord b addr v s) :=
  ⟨_, _, s.banks, s.ecc, s.memCapture, s.stormReports, s.globalFlags, rfl⟩

theorem CheckTouch.poison (addr : Nat) (v : Word) (s : State) : CheckTouch s (storePoison addr v s) :=
  ⟨_, _, s.banks, s.ecc, s.memCapture, s.stormReports, s.globalFlags, rfl⟩

theorem CheckTouch.bytes (addr : Nat) (v : Word) (s : State) : CheckTouch s (storeBytes addr v s) :=
  ⟨_, s.lanes, s.banks, s.ecc, s.memCapture, s.stormReports, s.globalFlags, rfl⟩

theorem CheckTouch.corrected (s : State) : CheckTouch s (countCorrected s) := by
  obtain ⟨e, g, h⟩ := countCorrected_touches s
  exact ⟨s.ram, s.lanes, s.banks, e, s.memCapture, s.stormReports, g, h⟩

theorem CheckTouch.uncorrectable (src : Source) (b : BankId) (addr : Nat) (s : State) :
    CheckTouch s (countUncorrectable src b addr s) := by
  obtain ⟨k, e, m, r, g, h⟩ := countUncorrectable_touches src b addr s
  exact ⟨s.ram, s.lanes, k, e, m, r, g, h⟩

theorem CheckTouch.poisoned (src : Source) (s : State) : CheckTouch s (countPoisoned src s) := by
  obtain ⟨e, g, h⟩ := countPoisoned_touches src s
  exact ⟨s.ram, s.lanes, s.banks, e, s.memCapture, s.stormReports, g, h⟩

theorem readClassed_touches (src : Source) (b : BankId) (addr : Nat) (cls : CheckClass) (bud : Option Nat)
    (s : State) : CheckTouch s (readClassed src b addr cls bud s).2.2 := by
  cases cls with
  | clean => exact .refl s
  | corrected v =>
    cases h : spend bud with
    | none => simpa only [readClassed, h] using CheckTouch.refl s
    | some bud1 => simpa only [readClassed, h] using (CheckTouch.store b addr v s).trans (.corrected _)
  | uncorrectable =>
    cases h : spend bud with
    | none => simpa only [readClassed, h] using CheckTouch.refl s
    | some bud1 =>
      simpa only [readClassed, h] using (CheckTouch.poison addr _ s).trans (.uncorrectable src b addr _)
  | poisoned => exact .poisoned src s

theorem readAccess_touches (src : Source) (b : BankId) (addr : Nat) (bud : Option Nat) (s : State) :
    CheckTouch s (readAccess src b addr bud s).2.2 := by
  unfold readAccess
  split
  · exact .refl s
  · split
    · exact readClassed_touches ..
    · exact .refl s

theorem readWords_touches (src : Source) (b : BankId) :
    ∀ (l : List Nat) (bud : Option Nat) (s : State), CheckTouch s (readWords src b l bud s).2 := by
  intro l
  induction l with
  | nil => exact fun _ s => .refl s
  | cons addr rest ih =>
    intro bud s
    have h := readAccess_touches src b addr bud s
    unfold readWords
    split
    · rename_i heq
      rw [heq] at h
      exact h.trans (ih _ _)
    · rename_i heq
      rw [heq] at h
      exact h

theorem writeWords_touches (b : BankId) :
    ∀ (l : List (Nat × Word)) (bud : Option Nat) (s : State), CheckTouch s (writeWords b l bud s).2 := by
  intro l
  induction l with
  | nil => exact fun _ s => .refl s
  | cons e rest ih =>
    obtain ⟨addr, v⟩ := e
    intro bud s
    cases h : spend bud with
    | none => simpa only [writeWords, h] using CheckTouch.refl s
    | some bud1 =>
      simp only [writeWords, h]
      exact (CheckTouch.store b addr v s).trans (ih bud1 _)

theorem mergeClassed_touches (src : Source) (b : BankId) (addr lane size : Nat) (v : Word) (cls : CheckClass)
    (bud : Option Nat) (s : State) : CheckTouch s (mergeClassed src b addr lane size v cls bud s).2 := by
  cases cls with
  | clean =>
    cases h : spend bud with
    | none => simpa only [mergeClassed, h] using CheckTouch.refl s
    | some bud1 => simpa only [mergeClassed, h] using CheckTouch.store b addr _ s
  | corrected d =>
    cases h : spend bud with
    | none => simpa only [mergeClassed, h] using CheckTouch.refl s
    | some bud1 => simpa only [mergeClassed, h] using (CheckTouch.store b addr _ s).trans (.corrected _)
  | uncorrectable =>
    cases h : spend bud with
    | none => simpa only [mergeClassed, h] using CheckTouch.refl s
    | some bud1 =>
      simpa only [mergeClassed, h] using (CheckTouch.poison addr _ s).trans (.uncorrectable src b addr _)
  | poisoned => exact .poisoned src s

theorem readModifyWrite_touches (src : Source) (b : BankId) (addr lane size : Nat) (v : Word) (bud : Option Nat)
    (s : State) : CheckTouch s (readModifyWrite src b addr lane size v bud s).2 := by
  unfold readModifyWrite
  split
  · exact .refl s
  · exact mergeClassed_touches ..

theorem subWordWrite_touches (src : Source) (b : BankId) (addr lane size : Nat) (v : Word) (bud : Option Nat)
    (s : State) : CheckTouch s (subWordWrite src b addr lane size v bud s).2 := by
  unfold subWordWrite
  split
  · exact readModifyWrite_touches ..
  · split
    · exact .refl s
    · exact .bytes ..

/-- A port's operation touches the memory and the check unit's records. -/
theorem portRun_touches (p : Port) (op : PortOp) (bud : Option Nat) (s : State) :
    CheckTouch s (portRun p op bud s).2 := by
  unfold portRun
  split
  · split
    · exact writeWords_touches ..
    · exact subWordWrite_touches ..
  · exact readWords_touches ..

/-! ## What an access gives

The classes are never evaluated on variables: these lemmas name the class and rewrite with it. -/

/-- A read access in a protected bank gives what its word's class gives. -/
theorem readAccess_protected {src : Source} {b : BankId} {addr : Nat} {s : State} (h : s.isProtected b = true) :
    readAccess src b addr none s = readClassed src b addr (s.classAt addr) none s := by
  unfold readAccess
  exact if_pos h

/-- A read access of a clean word, or in a bank with the check code off, delivers the word and changes nothing. -/
theorem readAccess_clean {src : Source} {b : BankId} {addr : Nat} {s : State}
    (h : s.isProtected b = true → s.classAt addr = .clean) :
    readAccess src b addr none s = (.data (wordRead s.ram addr), none, s) := by
  cases hp : s.isProtected b with
  | true => rw [readAccess_protected hp, h hp]; rfl
  | false =>
    unfold readAccess
    exact if_neg (by rw [hp]; decide)

/-- A read of clean words delivers them in order and changes nothing. -/
theorem readWords_clean (src : Source) (b : BankId) (s : State) :
    ∀ (l : List Nat), (∀ addr ∈ l, s.isProtected b = true → s.classAt addr = .clean) →
      readWords src b l none s = (⟨l.map (wordRead s.ram), l.length, none⟩, s) := by
  intro l
  induction l with
  | nil => exact fun _ => rfl
  | cons x xs ih =>
    intro h
    unfold readWords
    rw [readAccess_clean (h x (List.mem_cons_self ..))]
    simp only [ih (fun y hy => h y (List.mem_cons_of_mem _ hy)), List.map_cons, List.length_cons]

/-- The same with a word access to spare in a budget. -/
theorem readAccess_clean_some {src : Source} {b : BankId} {addr k : Nat} {s : State}
    (h : s.isProtected b = true → s.classAt addr = .clean) :
    readAccess src b addr (some (k + 1)) s = (.data (wordRead s.ram addr), some k, s) := by
  cases hp : s.isProtected b with
  | true =>
    have e : readAccess src b addr (some (k + 1)) s = readClassed src b addr (s.classAt addr) (some k) s := by
      unfold readAccess
      exact if_pos hp
    rw [e, h hp]
    rfl
  | false =>
    unfold readAccess
    exact if_neg (by rw [hp]; decide)

/-- A read cut off by a budget delivers the clean words before the cut, ends in TIMEOUT and changes nothing. -/
theorem readWords_cut (src : Source) (b : BankId) (s : State) :
    ∀ (l : List Nat) (k : Nat), k < l.length →
      (∀ addr ∈ l.take k, s.isProtected b = true → s.classAt addr = .clean) →
      readWords src b l (some k) s = (⟨(l.take k).map (wordRead s.ram), k, some .timeout⟩, s) := by
  intro l
  induction l with
  | nil => exact fun k hk => absurd hk (Nat.not_lt_zero k)
  | cons x xs ih =>
    intro k hk h
    cases k with
    | zero => simp [readWords, readAccess, spend, readFault]
    | succ k =>
      unfold readWords
      rw [readAccess_clean_some (h x (by simp))]
      dsimp only
      rw [ih k (by simpa using hk) (fun y hy => h y (by simp [hy]))]
      simp

/-- A sub-word write in a protected bank does what the class of its word says. -/
theorem subWordWrite_protected {src : Source} {b : BankId} {addr lane size : Nat} {v : Word} {s : State}
    (h : s.isProtected b = true) :
    subWordWrite src b addr lane size v none s = mergeClassed src b addr lane size v (s.classAt addr) none s := by
  unfold subWordWrite readModifyWrite
  exact if_pos h

/-- A full-word write operation whose accesses all get ready stores its words in order. -/
theorem writeWords_none (b : BankId) :
    ∀ (l : List (Nat × Word)) (s : State),
      writeWords b l none s = (⟨[], l.length, none⟩, l.foldl (fun u e => storeWord b e.1 e.2 u) s) := by
  intro l
  induction l with
  | nil => exact fun _ => rfl
  | cons e rest ih =>
    intro s
    obtain ⟨x, v⟩ := e
    simp only [writeWords, spend, ih, List.foldl_cons, List.length_cons]

/-- Under a budget of `k` accesses the first `k` words are stored. -/
theorem writeWords_some (b : BankId) :
    ∀ (l : List (Nat × Word)) (k : Nat) (s : State),
      (writeWords b l (some k) s).2 = (l.take k).foldl (fun u e => storeWord b e.1 e.2 u) s := by
  intro l
  induction l with
  | nil => intro k s; simp [writeWords]
  | cons e rest ih =>
    intro k s
    obtain ⟨x, v⟩ := e
    cases k with
    | zero => simp [writeWords, spend]
    | succ k => simp [writeWords, spend, ih]

/-- A write cut off by a budget stores the words before the cut and ends in TIMEOUT. -/
theorem writeWords_cut (b : BankId) :
    ∀ (l : List (Nat × Word)) (k : Nat) (s : State), k < l.length →
      writeWords b l (some k) s
        = (⟨[], k, some .timeout⟩, (l.take k).foldl (fun u e => storeWord b e.1 e.2 u) s) := by
  intro l
  induction l with
  | nil => exact fun k _ hk => absurd hk (Nat.not_lt_zero k)
  | cons e rest ih =>
    intro k s hk
    obtain ⟨x, v⟩ := e
    cases k with
    | zero => simp [writeWords, spend]
    | succ k =>
      unfold writeWords spend
      dsimp only
      rw [ih k _ (by simpa using hk)]
      simp

/-! ## The end of an operation at its port -/

/-- What the end of a port's operation can touch. -/
def PortTouch (s t : State) : Prop :=
  ∃ x g c n d l, t =
    { s with
      ports := x, globalFlags := g, commands := c, nextStamp := n
      mirror := { s.mirror with dirty := d }, arbiter := { s.arbiter with lock := l } }

theorem PortTouch.refl (s : State) : PortTouch s s :=
  ⟨s.ports, s.globalFlags, s.commands, s.nextStamp, s.mirror.dirty, s.arbiter.lock, rfl⟩

theorem PortTouch.trans {s t u : State} (h : PortTouch s t) (h' : PortTouch t u) : PortTouch s u := by
  obtain ⟨x, g, c, n, d, l, rfl⟩ := h
  obtain ⟨x', g', c', n', d', l', rfl⟩ := h'
  exact ⟨x', g', c', n', d', l', rfl⟩

theorem PortTouch.answer (p : Port) (a : Access) (ans : Answer) (addr : BitVec 24) (locked : Bool) (s : State) :
    PortTouch s (giveAnswer p a ans addr locked s) := by
  obtain ⟨x, g, h⟩ := giveAnswer_touches p a ans addr locked s
  exact ⟨x, g, s.commands, s.nextStamp, s.mirror.dirty, s.arbiter.lock, h⟩

theorem PortTouch.phase (p : Port) (r : PortRecord) (s : State) : PortTouch s (s.setPort p r) :=
  ⟨_, s.globalFlags, s.commands, s.nextStamp, s.mirror.dirty, s.arbiter.lock, rfl⟩

theorem acceptCommand_touches (p : Port) (w : Word) (s : State) : PortTouch s (acceptCommand p w s) := by
  unfold acceptCommand
  split
  · split
    · exact .refl s
    · exact ⟨s.ports, s.globalFlags, _, _, _, s.arbiter.lock, rfl⟩
  all_goals
    obtain ⟨g, h⟩ := raiseGlobal_touches p .cmdDone
      (markDirty (4 + portNat p)
        (s.setCommand p { s.command p with refused := some (BitVec.ofNat 8 (commandCode w)) }))
    exact ⟨s.ports, g, _, s.nextStamp, _, s.arbiter.lock, h⟩

/-- A command word handed over while the port's command is not IDLE is refused BUSY, in every device state (R165). -/
theorem acceptCommand_refused {p : Port} {w : Word} {s : State} (h : (s.command p).state ≠ .idle) :
    acceptCommand p w s = raiseGlobal p .cmdDone (markDirty (4 + portNat p)
      (s.setCommand p { s.command p with refused := some (BitVec.ofNat 8 (commandCode w)) })) := by
  unfold acceptCommand
  split
  · contradiction
  · rfl
  · rfl

/-- A command word is dropped when LOADING goes on and the port's command is IDLE (R169, log 18). -/
theorem acceptCommand_loading {p : Port} {w : Word} {s : State} (h : (s.command p).state = .idle)
    (hl : s.device = .loading) : acceptCommand p w s = s := by
  unfold acceptCommand
  rw [h]
  exact if_pos hl

theorem lockAfter_touches (p : Port) (tag : OpTag) (f : Option FaultCode) (s : State) :
    PortTouch s (lockAfter p tag f s) := by
  unfold lockAfter
  split
  · split
    · exact ⟨s.ports, s.globalFlags, s.commands, s.nextStamp, s.mirror.dirty, _, rfl⟩
    · exact .refl s
  · exact ⟨s.ports, s.globalFlags, s.commands, s.nextStamp, s.mirror.dirty, _, rfl⟩
  · exact .refl s
  · exact .refl s
  · exact .refl s

theorem answerOp_touches (p : Port) (a : Access) (op : PortOp) (r : OpResult) (s : State) :
    PortTouch s (answerOp p a op r s) := by
  unfold answerOp
  split
  · split
    · exact (acceptCommand_touches ..).trans (.answer ..)
    · exact .phase ..
  all_goals exact .answer ..

theorem putLast_touches (p : Port) (a : Access) (op : PortOp) (s : State) : PortTouch s (putLast p a op s) := by
  unfold putLast
  split
  · exact .phase ..
  · exact answerOp_touches ..

theorem releaseKeptBack_touches (p : Port) (tag : OpTag) (s : State) : PortTouch s (releaseKeptBack p tag s) := by
  unfold releaseKeptBack
  split
  · split
    · split
      · exact putLast_touches ..
      · exact .refl s
    · exact .refl s
  all_goals exact .refl s

theorem endPortOp_touches (p : Port) (a : Access) (op : PortOp) (r : OpResult) (s : State) :
    PortTouch s (endPortOp p a op r s) :=
  ((lockAfter_touches ..).trans (answerOp_touches ..)).trans (releaseKeptBack_touches ..)

theorem putPort_touches (p : Port) (a : Access) (op : PortOp) (s : State) : PortTouch s (putPort p a op s) := by
  unfold putPort
  split
  · exact .phase ..
  · exact endPortOp_touches ..

theorem putWords_touches (p : Port) (a : Access) (addrs : List Nat) (data : List Word) (tag : OpTag) (s : State) :
    PortTouch s (putWords p a addrs data tag s) := by
  unfold putWords
  split
  · exact putPort_touches ..
  · exact .answer ..

/-- The end of a command touches its record, CMD_DONE and the dirty set. -/
theorem endCommand_touches (p : Port) (o : CommandOutcome) (s : State) : PortTouch s (endCommand p o s) := by
  unfold endCommand
  obtain ⟨g, h⟩ := raiseGlobal_touches p .cmdDone
    (markDirty (4 + portNat p) (s.setCommand p { s.command p with state := .idle, outcome := o }))
  exact ⟨s.ports, g, _, s.nextStamp, _, s.arbiter.lock, h⟩

end Sys2Proof.Machine
end

