-- ==== Sys2Proof/Laws/Step.lean ====
section
/-! SUPPORT. The frame of a step: when an event happens, when it does not, and what settling adds. -/

namespace Sys2Proof.Machine

open Sys2Proof

/-- An event that happens answers its state, settled. -/
theorem event_of_some {s t : State} {f : State → Option State} (h : s.pinAsserted = false) (hf : f s = some t) :
    event s f = settle s t := by
  simp only [event, h, hf, afterEvent]; rfl

/-- An event that does not happen leaves the state. -/
theorem event_of_none {s : State} {f : State → Option State} (hf : f s = none) : event s f = s := by
  unfold event
  split
  · rfl
  · simp only [hf, afterEvent]

/-- While the pin reset is asserted nothing happens. -/
theorem event_of_pinned {s : State} {f : State → Option State} (h : s.pinAsserted = true) : event s f = s := by
  simp only [event, h, if_true]

/-- An event either leaves the state or settles the state it makes. -/
theorem event_cases (s : State) (f : State → Option State) :
    event s f = s ∨ ∃ t, s.pinAsserted = false ∧ f s = some t ∧ event s f = settle s t := by
  cases hp : s.pinAsserted with
  | true => exact .inl (event_of_pinned hp)
  | false =>
    cases hf : f s with
    | none => exact .inl (event_of_none hf)
    | some t => exact .inr ⟨t, rfl, rfl, event_of_some hp hf⟩

/-- A whole step on a nonempty queue. -/
theorem step_of_cons {s : State} {c : Instr} {rest : List Instr} (h : s.pending = c :: rest) :
    step s = exec c { s with pending := rest } := by
  simp only [step, h]

theorem step_of_nil {s : State} (h : s.pending = []) : step s = .next s := by
  simp only [step, h]

end Sys2Proof.Machine
end

