-- ==== Sys2Proof/Laws/Mirror.lean ====
section
/-! SUPPORT. The dirty set: which offsets a step marks, and what its settling does to the set (R158). -/

namespace Sys2Proof.Machine

open Sys2Proof

/-! ## Offsets in the set -/

theorem mem_insertOffset (k x : Nat) : ∀ l : List Nat, x ∈ insertOffset k l ↔ x = k ∨ x ∈ l
  | [] => by simp [insertOffset]
  | y :: ys => by
    unfold insertOffset
    split
    · simp
    · split
      · rename_i h; subst h; simp
      · simp only [List.mem_cons, mem_insertOffset k x ys]; exact or_left_comm

theorem mem_foldl_insertOffset (x : Nat) : ∀ (ks l : List Nat),
    x ∈ ks.foldl (fun d off => insertOffset off d) l ↔ x ∈ ks ∨ x ∈ l
  | [], l => by simp
  | k :: ks, l => by
    rw [List.foldl_cons, mem_foldl_insertOffset x ks, mem_insertOffset, List.mem_cons]
    exact ⟨fun h => h.elim (fun h => .inl (.inr h)) (fun h => h.elim (fun h => .inl (.inl h)) .inr),
      fun h => h.elim (fun h => h.elim (fun h => .inr (.inl h)) .inl) (fun h => .inr (.inr h))⟩

theorem ascending_insertOffset (k : Nat) : ∀ {l : List Nat}, ascending l → ascending (insertOffset k l)
  | [], _ => ⟨by simp, trivial⟩
  | x :: xs, h => by
    unfold insertOffset
    split
    · rename_i hk
      refine ⟨?_, h⟩
      intro y hy
      rcases List.mem_cons.1 hy with e | e
      · omega
      · have := h.1 y e; omega
    · split
      · exact h
      · refine ⟨?_, ascending_insertOffset k h.2⟩
        intro y hy
        rcases (mem_insertOffset k y xs).1 hy with e | e
        · omega
        · exact h.1 y e

theorem ascending_erase (k : Nat) : ∀ {l : List Nat}, ascending l → ascending (l.erase k)
  | [], _ => trivial
  | x :: xs, h => by
    rw [List.erase_cons]
    split
    · exact h.2
    · exact ⟨fun y hy => h.1 y (List.mem_of_mem_erase hy), ascending_erase k h.2⟩

theorem ascending_foldl_insertOffset : ∀ (ks : List Nat) {l : List Nat}, ascending l →
    ascending (ks.foldl (fun d off => insertOffset off d) l)
  | [], _, h => h
  | k :: ks, _, h => ascending_foldl_insertOffset ks (ascending_insertOffset k h)

/-! ## Changed words -/

/-- A word that has no mirrored meaning shows zero in every state. -/
theorem mirrorWord_unmirrored (s : State) (off : Nat) (h : off ∉ mirroredOffsets) : mirrorWord s off = 0 := by
  have h1 : ¬ (128 ≤ off ∧ off < 384) := fun e => h (by simp [mirroredOffsets, List.mem_range'_1]; omega)
  have h2 : ¬ (384 ≤ off ∧ off < 512) := fun e => h (by simp [mirroredOffsets, List.mem_range'_1]; omega)
  have h3 : ¬ (16 ≤ off ∧ off < 32) := fun e => h (by simp [mirroredOffsets, List.mem_range'_1]; omega)
  have h4 : ¬ (80 ≤ off ∧ off < 88) := fun e => h (by simp [mirroredOffsets, List.mem_range'_1]; omega)
  have h5 : ¬ (68 ≤ off ∧ off < 72) := fun e => h (by simp [mirroredOffsets, List.mem_range'_1]; omega)
  have h6 : ¬ (72 ≤ off ∧ off < 76) := fun e => h (by simp [mirroredOffsets, List.mem_range'_1]; omega)
  have h7 : ¬ (76 ≤ off ∧ off < 80) := fun e => h (by simp [mirroredOffsets, List.mem_range'_1]; omega)
  have h8 : ¬ (88 ≤ off ∧ off < 91) := fun e => h (by simp [mirroredOffsets, List.mem_range'_1]; omega)
  have h9 : ¬ (92 ≤ off ∧ off < 95) := fun e => h (by simp [mirroredOffsets, List.mem_range'_1]; omega)
  unfold mirrorWord
  rw [dif_neg h1, dif_neg h2, dif_neg h3, dif_neg h4, if_neg h5, if_neg h6, if_neg h7, if_neg h8, if_neg h9]
  split <;> first | rfl | exact absurd (by decide) h

/-- The scrub status words that show the same show the same of the scrubber, and the other way round. -/
theorem scrubShown_eq_iff (x y : Scrubber) (k : Nat) (hk : k < 3) :
    scrubShown x k = scrubShown y k ↔ scrubStatusWord x k = scrubStatusWord y k := by
  match k, hk with
  | 0, _ =>
    cases hx : x.state with
    | stopped =>
      cases hy : y.state with
      | stopped => simp [scrubShown, scrubStatusWord, hx, hy]
      | running ph =>
        have e := (Config.stoppedScrubPhase).isLt
        simp only [scrubShown, scrubStatusWord, hx, hy, reduceCtorEq, false_iff]
        intro h
        have h := congrArg BitVec.toNat h
        simp only [BitVec.toNat_ofNat, fieldAt] at h
        omega
    | running ph =>
      cases hy : y.state with
      | stopped =>
        have e := (Config.stoppedScrubPhase).isLt
        simp only [scrubShown, scrubStatusWord, hx, hy, reduceCtorEq, false_iff]
        intro h
        have h := congrArg BitVec.toNat h
        simp only [BitVec.toNat_ofNat, fieldAt] at h
        omega
      | running ph' =>
        simp only [scrubShown, scrubStatusWord, hx, hy]
        cases ph <;> cases ph' <;> decide
  | 1, _ =>
    cases hx : x.position with
    | none =>
      cases hy : y.position with
      | none => simp [scrubShown, scrubStatusWord, hx, hy]
      | some a =>
        have e := (Config.absentScrubPosition).isLt
        simp only [scrubShown, scrubStatusWord, hx, hy, Option.map_none, Option.map_some, reduceCtorEq, false_iff]
        intro h
        have h := congrArg BitVec.toNat h
        simp only [BitVec.toNat_ofNat, fieldAt] at h
        omega
    | some a =>
      cases hy : y.position with
      | none =>
        have e := (Config.absentScrubPosition).isLt
        simp only [scrubShown, scrubStatusWord, hx, hy, Option.map_none, Option.map_some, reduceCtorEq, false_iff]
        intro h
        have h := congrArg BitVec.toNat h
        simp only [BitVec.toNat_ofNat, fieldAt] at h
        omega
      | some b =>
        simp only [scrubShown, scrubStatusWord, hx, hy, Option.map_some, Option.some.injEq]
        constructor
        · intro h; simp only [fieldAt, h]
        · intro h
          have h := congrArg BitVec.toNat h
          simp only [BitVec.toNat_ofNat, fieldAt] at h
          omega
  | 2, _ =>
    simp only [scrubShown, scrubStatusWord, Option.some.injEq]
    constructor
    · intro h; simp only [h]
    · intro h
      have h := congrArg BitVec.toNat h
      have e1 := x.passes.isLt
      have e2 := y.passes.isLt
      simp only [BitVec.toNat_ofNat, fieldAt] at h
      omega

/-- A word is marked as changed exactly when the two states show different values there. -/
theorem wordChanged_iff (s t : State) (off : Nat) :
    wordChanged s t off = true ↔ mirrorWord s off ≠ mirrorWord t off := by
  unfold wordChanged
  split
  · rename_i h
    have e : ∀ u : State, mirrorWord u off = scrubStatusWord u.scrub (off - 88) := by
      intro u
      unfold mirrorWord
      rw [dif_neg (by omega), dif_neg (by omega), dif_neg (by omega), dif_neg (by omega), if_neg (by omega),
        if_neg (by omega), if_neg (by omega), if_pos h]
    rw [e s, e t, bne_iff_ne, ne_eq, scrubShown_eq_iff _ _ _ (by omega)]
  · exact bne_iff_ne

/-- An offset is marked with itself. -/
theorem mem_markedWith (off : Nat) : off ∈ markedWith off := by
  unfold markedWith
  split
  · simp only [List.mem_range'_1]; omega
  · split
    · simp only [List.mem_range'_1]; omega
    · exact List.mem_cons_self ..

/-- The changed offsets are those with which some word is marked that shows different values in the two states. -/
theorem mem_changedOffsets (s t : State) (off : Nat) :
    off ∈ changedOffsets s t ↔ ∃ k ∈ markedWith off, mirrorWord s k ≠ mirrorWord t k := by
  unfold changedOffsets
  simp only [List.mem_filter, List.any_eq_true, wordChanged_iff]
  refine ⟨fun h => h.2, fun h => ⟨?_, h⟩⟩
  obtain ⟨k, hk, hc⟩ := h
  unfold markedWith at hk
  split at hk
  · simp [mirroredOffsets, List.mem_range'_1]; omega
  · split at hk
    · simp [mirroredOffsets, List.mem_range'_1]; omega
    · apply Classical.byContradiction
      intro hn
      rw [List.mem_singleton.1 hk, mirrorWord_unmirrored s off hn, mirrorWord_unmirrored t off hn] at hc
      exact hc rfl

/-! ## Settling -/

/-- Settling changes the dirty set only. -/
theorem settle_eq (s t : State) :
    settle s t = { t with mirror := { t.mirror with dirty := (settle s t).mirror.dirty } } := rfl

/-- The dirty set of a settled state outside LOADING: what was in it, and the offsets marked with a changed word. -/
theorem mem_dirty_settle (s t : State) (off : Nat) (h : t.device ≠ .loading) :
    off ∈ (settle s t).mirror.dirty ↔
      (∃ k ∈ markedWith off, mirrorWord s k ≠ mirrorWord t k) ∨ off ∈ t.mirror.dirty := by
  unfold settle
  dsimp only
  rw [if_neg h, mem_foldl_insertOffset, mem_changedOffsets]

/-- A changed word is in the set. -/
theorem changed_mem_dirty_settle (s t : State) (off : Nat) (h : t.device ≠ .loading)
    (hc : mirrorWord s off ≠ mirrorWord t off) : off ∈ (settle s t).mirror.dirty :=
  (mem_dirty_settle s t off h).2 (.inl ⟨off, mem_markedWith off, hc⟩)

/-- Marking several offsets. -/
theorem mem_dirty_markAll (offs : List Nat) (s : State) (off : Nat) :
    off ∈ (markAll offs s).mirror.dirty ↔ off ∈ offs ∨ off ∈ s.mirror.dirty :=
  mem_foldl_insertOffset off offs _

/-- During LOADING it is empty. -/
theorem dirty_settle_loading (s t : State) (h : t.device = .loading) : (settle s t).mirror.dirty = [] := by
  unfold settle
  dsimp only
  rw [if_pos h]

/-- A settled state keeps its set ascending. -/
theorem dirtySetOrdered_settle (s t : State) (h : dirtySetOrdered t) : dirtySetOrdered (settle s t) := by
  unfold dirtySetOrdered settle
  dsimp only
  split
  · trivial
  · exact ascending_foldl_insertOffset _ h

/-- A BCB word does not show the dirty set. -/
theorem mirrorWord_settle (s t : State) (off : Nat) : mirrorWord (settle s t) off = mirrorWord t off := rfl

end Sys2Proof.Machine
end

