-- ==== Sys2Proof/Laws/Arbiter.lean ====
section
/-! SUPPORT. What a grant does: the engine's dealing before it, the choice, and the operation carried out. -/

namespace Sys2Proof.Machine

open Sys2Proof

/-! ## The engine's dealing -/

/-- Showing the next offset touches the channel alone. -/
theorem showNext_touches (j : CopyJob) (s : State) : ∃ c, showNext j s = { s with channels := c } := by
  unfold showNext
  split
  · split
    · exact ⟨_, rfl⟩
    · exact ⟨s.channels, rfl⟩
  · exact ⟨s.channels, rfl⟩

/-- Dealing with the next offset touches the channel and the engine alone. -/
theorem copyAdvance_touches (j : CopyJob) (s : State) :
    ∃ c e, copyAdvance j s = { s with channels := c, copy := e } := by
  unfold copyAdvance
  dsimp only
  obtain ⟨c, h⟩ := showNext_touches { j with next := skipClaimed s j j.len j.next, flight := .none, word := none } s
  rw [h]
  split
  · exact ⟨_, _, rfl⟩
  · split <;> exact ⟨_, _, rfl⟩

/-- The dealing stops short of an unclaimed offset that lies ahead. -/
theorem skipClaimed_le {s : State} {j : CopyJob} {x : Nat} (hx : x < j.len) (hc : jobClaimed s j x = false) :
    ∀ (fuel k : Nat), k ≤ x → skipClaimed s j fuel k ≤ x := by
  intro fuel
  induction fuel with
  | zero => exact fun _ h => h
  | succ n ih =>
    intro k hk
    unfold skipClaimed
    rw [if_neg (by omega)]
    split
    · rename_i h
      refine ih (k + 1) ?_
      rcases Nat.lt_or_ge k x with h2 | h2
      · exact h2
      · have : k = x := by omega
        rw [this, hc] at h
        cases h
    · exact hk

/-- With every offset ahead claimed, the dealing ends at the end of the window. -/
theorem skipClaimed_all {s : State} {j : CopyJob} :
    ∀ (fuel k : Nat), k ≤ j.len → j.len ≤ k + fuel → (∀ x, k ≤ x → x < j.len → jobClaimed s j x = true) →
      skipClaimed s j fuel k = j.len := by
  intro fuel
  induction fuel with
  | zero => exact fun k h1 h2 _ => by unfold skipClaimed; omega
  | succ n ih =>
    intro k h1 h2 h
    unfold skipClaimed
    split
    · omega
    · rw [if_pos (h k (Nat.le_refl k) (by omega))]
      exact ih (k + 1) (by omega) (by omega) (fun x hx => h x (by omega))

/-- Nothing is dealt with unless a copy has nothing in flight. -/
theorem dealNext_of_none {s : State} (h : copyToDeal s = none) : dealNext s = s := by
  unfold dealNext
  rw [h]

theorem dealNext_of_some {s : State} {j : CopyJob} (h : copyToDeal s = some j) :
    dealNext s = settle s (copyAdvance j s) := by
  unfold dealNext
  rw [h]

/-! ## The grant -/

/-- The choice does not look at the dirty set. -/
theorem pick_settle (s t : State) : pick (settle s t) = pick t := rfl

/-- A step of the arbiter that happens answers its state, which has been settled part by part. -/
theorem execArbiterGrant_of_some {s t : State} (hs : s.pinAsserted = false) (h : arbiterGrant s = some t) :
    exec .arbiterGrant s = .next t := by
  refine congrArg Host.Outcome.next ?_
  rw [hs, h]
  rfl

/-- With an operation in progress, or nothing waiting, no further grant is made. -/
theorem grantLoop_done {s : State} (h : s.arbiter.busy.isSome = true ∨ pick s = none) :
    ∀ n, grantLoop n s = s := by
  intro n
  cases n with
  | zero => rfl
  | succ n =>
    unfold grantLoop
    split
    · rfl
    · rename_i hb
      rcases h with h | h
      · exact absurd h hb
      · rw [h]

/-- One grant, and then those after it. -/
theorem grantLoop_step {s : State} {x : Pick} (hb : s.arbiter.busy = none) (hp : pick s = some x) (n : Nat) :
    grantLoop (n + 1) s = grantLoop n (settle s (carryOut x s)) := by
  rw [grantLoop, hb, hp]
  rfl

/-- A grant whose operation takes the memory port, or after whose withdrawal nothing waits, is the only one. -/
theorem grantLoop_once {s t : State} {x : Pick} (hb : s.arbiter.busy = none) (hp : pick s = some x)
    (hc : carryOut x s = t) (hd : t.arbiter.busy.isSome = true ∨ pick t = none) (n : Nat) :
    grantLoop (n + 1) s = settle s t := by
  rw [grantLoop_step hb hp, hc]
  exact grantLoop_done (s := settle s t) hd n

/-- ARBITER_GRANT with one grant, after the engine's dealing. -/
theorem arbiterGrant_once {s u t : State} {x : Pick} (hs : s.pinAsserted = false) (hb : s.arbiter.busy = none)
    (hl : s.arbiter.lock = none) (hw : (pick s).isSome = true ∨ (copyToDeal s).isSome = true) (hu : dealNext s = u)
    (hub : u.arbiter.busy = none) (hp : pick u = some x) (hc : carryOut x u = t)
    (hd : t.arbiter.busy.isSome = true ∨ pick t = none) :
    exec .arbiterGrant s = .next (settle u t) := by
  refine execArbiterGrant_of_some hs ?_
  have h : ((pick s).isSome || (copyToDeal s).isSome) = true := by simpa using hw
  unfold arbiterGrant
  rw [hb, hl, hu, grantLoop_once hub hp hc hd, h]
  rfl

/-! ## The mirror write granted (R159) -/

/-- A granted mirror write changes no BCB word. -/
theorem mirrorWord_grantMirror (s : State) (off : Nat) : mirrorWord (grantMirror s) off = mirrorWord s off := by
  unfold grantMirror
  split <;> rfl

/-- An ascending list holds an offset once. -/
theorem not_mem_erase_of_ascending (k : Nat) : ∀ {l : List Nat}, ascending l → k ∉ l.erase k
  | [], _ => List.not_mem_nil
  | x :: xs, h => by
    rw [List.erase_cons]
    split
    · rename_i e
      rw [← beq_iff_eq.1 e]
      exact fun hk => Nat.lt_irrefl _ (h.1 _ hk)
    · rename_i e
      intro hk
      rcases List.mem_cons.1 hk with hk | hk
      · exact e (beq_iff_eq.2 hk.symm)
      · exact not_mem_erase_of_ascending k h.2 hk

/-- The offset of a mirror write just granted is not in the set. -/
theorem grantMirror_leaves_set {s : State} {off : Nat} {b : BankId} (hr : s.mirror.request = .waiting off)
    (hb : s.bcbBank = some b) (ho : dirtySetOrdered s) : off ∉ (settle s (grantMirror s)).mirror.dirty := by
  have hd : (grantMirror s).mirror.dirty = s.mirror.dirty.erase off := by
    unfold grantMirror
    rw [hr, hb]
    rfl
  by_cases hl : (grantMirror s).device = .loading
  · rw [dirty_settle_loading _ _ hl]
    exact List.not_mem_nil
  · rw [mem_dirty_settle _ _ _ hl, hd]
    rintro (⟨k, _, hk⟩ | h)
    · exact hk (mirrorWord_grantMirror s k).symm
    · exact not_mem_erase_of_ascending off ho h

end Sys2Proof.Machine
end

