-- ==== Sys2Proof/Laws/Flags.lean ====
section
/-! SUPPORT. Flags read after they are set, raised, cleared or posted. -/

namespace Sys2Proof.Machine

open Sys2Proof

theorem globalStage_setGlobalStage_ne (s : State) {l m : Port} {n k : Fin 9} (g : Stage) (h : m ≠ l ∨ k ≠ n) :
    (s.setGlobalStage l n g).globalStage m k = s.globalStage m k := by
  unfold State.globalStage State.setGlobalStage
  by_cases hm : m = l
  · subst hm
    rw [Pair.get_set_same, vector_get_set_ne]
    exact h.resolve_left (fun e => e rfl)
  · rw [Pair.get_set_ne _ _ hm]

theorem channelStage_setChannelStage_ne (s : State) {c d : ChanId} {n k : Fin 7} (g : Stage) (h : d ≠ c ∨ k ≠ n) :
    (s.setChannelStage c n g).channelStage d k = s.channelStage d k := by
  unfold State.channelStage State.setChannelStage
  by_cases hm : d = c
  · subst hm
    rw [vector_get_set_same, vector_get_set_ne]
    exact h.resolve_left (fun e => e rfl)
  · rw [vector_get_set_ne _ _ hm]

/-- Dropping a carried bit leaves every flag. -/
@[simp] theorem globalStage_dropCarried (off bit : Nat) (s : State) (l : Port) (n : Fin 9) :
    (dropCarried off bit s).globalStage l n = s.globalStage l n := by
  obtain ⟨q, h⟩ := dropCarried_touches off bit s
  rw [h]; rfl

@[simp] theorem channelStage_dropCarried (off bit : Nat) (s : State) (c : ChanId) (n : Fin 7) :
    (dropCarried off bit s).channelStage c n = s.channelStage c n := by
  obtain ⟨q, h⟩ := dropCarried_touches off bit s
  rw [h]; rfl

/-- The write in flight of a word whose flag is cleared carries the flag no longer (R161). -/
theorem dropCarried_inFlight {s : State} {w : MirrorWrite} (bit : Nat) (h : s.mirror.request = .inFlight w) :
    (dropCarried w.off bit s).mirror.request = .inFlight { w with carried := w.carried.filter (fun n => n != bit) } := by
  unfold dropCarried
  rw [h]
  exact congrArg (fun t : State => t.mirror.request) (if_pos rfl)

/-- A raised flag is not CLEAR. -/
theorem raiseGlobal_sets (l : Port) (f : GlobalFlag) (s : State) : (raiseGlobal l f s).globalStage l f.bit ≠ .clear := by
  unfold raiseGlobal
  split
  · simp
  · assumption

/-- Raising takes no flag away. -/
theorem raiseGlobal_keeps (l m : Port) (f : GlobalFlag) (n : Fin 9) (s : State) (h : s.globalStage m n ≠ .clear) :
    (raiseGlobal l f s).globalStage m n = s.globalStage m n := by
  unfold raiseGlobal
  split
  · rename_i hc
    apply globalStage_setGlobalStage_ne
    by_cases hm : m = l
    · subst hm
      exact .inr (fun e => h (e ▸ hc))
    · exact .inl hm
  · rfl

/-- A flag raised on both lines is CLEAR on neither. -/
theorem raiseBoth_sets (f : GlobalFlag) (s : State) (l : Port) : (raiseBoth f s).globalStage l f.bit ≠ .clear := by
  unfold raiseBoth
  cases l with
  | port0 =>
    rw [raiseGlobal_keeps _ _ _ _ _ (raiseGlobal_sets .port0 f s)]
    exact raiseGlobal_sets .port0 f s
  | port1 => exact raiseGlobal_sets .port1 f _

/-- Clearing a global flag clears it and leaves every other flag of both stores. -/
theorem globalStage_clearGlobal (l m : Port) (n k : Fin 9) (s : State) :
    (clearGlobal l n s).globalStage m k = if m = l ∧ k = n then .clear else s.globalStage m k := by
  unfold clearGlobal
  rw [globalStage_dropCarried]
  split
  · rename_i h; obtain ⟨rfl, rfl⟩ := h; simp
  · rename_i h
    apply globalStage_setGlobalStage_ne
    by_cases hm : m = l
    · exact .inr (fun e => h ⟨hm, e⟩)
    · exact .inl hm

theorem channelStage_clearChannelFlag (c d : ChanId) (n k : Fin 7) (s : State) :
    (clearChannelFlag c n s).channelStage d k = if d = c ∧ k = n then .clear else s.channelStage d k := by
  unfold clearChannelFlag
  rw [channelStage_dropCarried]
  split
  · rename_i h; obtain ⟨rfl, rfl⟩ := h; simp
  · rename_i h
    apply channelStage_setChannelStage_ne
    by_cases hm : d = c
    · exact .inr (fun e => h ⟨hm, e⟩)
    · exact .inl hm

/-- A step repeated over a list of bits, each round of which concerns its own bit: read at one bit. -/
theorem foldl_bit {α β : Type} [DecidableEq α] (f : State → α → State) (get : State → β) (a : α)
    (other : ∀ s x, x ≠ a → get (f s x) = get s) :
    ∀ (l : List α) (s : State), a ∉ l → get (l.foldl f s) = get s := by
  intro l
  induction l with
  | nil => exact fun _ _ => rfl
  | cons x xs ih =>
    intro s h
    rw [List.foldl_cons, ih _ (fun e => h (List.mem_cons_of_mem _ e))]
    exact other s x (fun e => h (e ▸ List.mem_cons_self ..))

end Sys2Proof.Machine
end

