-- ==== Sys2Proof/WellFormed.lean ====
section
/-! DEFINITION. Which commands an environment can send: a write presents one word for each beat, a read
presents none, and the configuration memory delivers no more than the loader reads. -/

namespace Sys2Proof

/-- How many beats an access has: the burst length, or 1. -/
def Access.beats (a : Access) : Nat :=
  match a.burst with
  | none => 1
  | some n => n.val

/-- A write presents one data word a beat; a read presents no data. -/
def Access.wellFormed (a : Access) : Bool :=
  if a.write then a.data.length == a.beats else a.data.isEmpty

/-- The image is never read past 512 words (R171), which are 2,048 bytes. -/
def imageBytesWellFormed (bytes : List Byte) : Bool :=
  decide (bytes.length ≤ 2048)

/-- The commands an environment can send. Ports, banks and channels are in range by their types. -/
def Instr.wellFormed : Instr → Bool
  | .portAccess _ a => a.wellFormed
  | .imageReadEnd bytes => imageBytesWellFormed bytes
  | .pinReset | .pinResetRelease | .microsecondTick | .millisecondAdvance
  | .writerDataWrite _ | .writerDataRead _ | .writerTagRead _ | .commit _ | .discard _
  | .readerTagRead _ | .readerDataRead _ | .release _ | .readerDataWrite _
  | .arbiterGrant | .portOperationEnd _ | .readyTimeout _ | .holdExpired _ | .freshnessExpiry _
  | .copyTakeHead | .copyOperationEnd | .copyCompletion | .copyFailure | .copyAbortNotice
  | .mirrorWriteRequest | .mirrorWriteEnd | .scrubIntervalExpiry | .scrubReadEnd
  | .timeoutReport _ | .storm _ | .retryTimerExpiry _ | .probeEnd _
  | .leavingNotice _ | .enteringNotice _
  | .channelEnable | .channelDisable | .channelReset | .channelLoad | .channelUnload
  | .slotRetire | .slotRestore | .bankReinstate | .bankClearRetries | .bankFence
  | .scrubStart | .scrubStop | .countersClear | .timeZero | .reload
  | .globalMaskWrite _ | .channelMaskWrite _ | .globalAck _ | .channelAck _ | .captureAck _
  | .stagingWrite _ | .applyImage | .fallbackApply | .initWriteEnd | .unlistedCommandCode => true

end Sys2Proof
end

