-- ==== Sys2Proof/Tests/Slice0.lean ====
section
/-! SUPPORT. The author's tests: the well-formedness checks, small vectors and single steps, and for each
statement that has hypotheses a state and operands that meet them together, clause by clause. -/

namespace Sys2Proof.Tests

open Sys2Proof Sys2Proof.Machine

/-! ## A small part to test on -/

/-- 64 KiB at 0, check code and ready control on, retries limited, storm threshold 2. -/
def cfgA : BankConfig := ⟨0, 0x10000, true, false, 0, 0, some 20, .limited, 50, 2, 0⟩

/-- 64 KiB at 0x10000, check code and ready control off; it holds the BCB at 0x1F000. -/
def cfgB : BankConfig := ⟨0x10000, 0x10000, false, false, 0, 0, none, .off, 10, 0, 0⟩

def bankWith (cfg : BankConfig) (sv : Service) : Bank := { Bank.reset with config := some cfg, service := sv }

/-- A channel of 16 words and 3 slots from 0x1000, its window at 0x20000. -/
def cfgL : ChannelConfig := ⟨0x20000, 16, .latest, 3, .port0, .port1, 0x1000, true, 7, .substitute, some 0x2000, true⟩

def cfgQ : ChannelConfig := { cfgL with mode := .queue, carry := false, policy := .hold, substitute := none }

def live (cfg : ChannelConfig) : Channel := { Channel.loaded cfg true with state := .live }

/-- RUN with both banks in service and no channel. -/
def rig : State :=
  { State.reset with
    device := .run
    loader := .fresh .idle
    bcbBase := 0x1F000
    defaultAccess := ⟨.readWrite, .read⟩
    banks := ⟨#[bankWith cfgA .inService, bankWith cfgB .inService, Bank.reset, Bank.reset], rfl⟩ }

def withChan (ch : Channel) : State := rig.setChan 0 (some ch)

/-- A slot COMMITTED with a frame number. -/
def slotC (n : BitVec 32) : Slot := ⟨.committed, some n, some 0, false, [], false⟩

def slotF : Slot := ⟨.filling, none, none, false, [], false⟩

/-- A LATEST channel whose newest frame is in slot 0 and whose filling is in slot 1. -/
def chNewest : Channel := { (live cfgL).setSlot 0 (slotC 1) with newest := some 0, frames := 1 }

def chFilling : Channel := { chNewest.setSlot 1 slotF with filling := some 1 }

/-- The same with a carry-forward copy of slot 0 into slot 1 in progress. -/
def chCopying : Channel :=
  { chFilling.setSlot 0 { slotC 1 with copySource := true } with copy := .copying 1 }

def rd (addr : BitVec 24) : Access := ⟨false, addr, 4, none, false, []⟩

def wr (addr : BitVec 24) (v : Word) : Access := ⟨true, addr, 4, none, false, [v]⟩

def burst (a : Access) (n : Fin 16) : Access := { a with burst := some n }

/-- An access of a port handed to channel 0. -/
def handedTo (p : Port) (a : Access) (off : Nat) (ch : Channel) : State :=
  (withChan ch).setPhase p (.atChannel a 0 off)

/-- A port's command PENDING. -/
def withCommand (p : Port) (w : Word) (s : State) : State := s.setCommand p ⟨.pending w 0, w, .pending, none⟩

/-- A port's operation that holds the memory port. -/
def granted (p : Port) (a : Access) (op : PortOp) (s : State) : State :=
  (s.setPhase p (.granted a op)).occupy (.port p)

/-- The state a command answers. -/
def after (o : Host.Outcome State Fault Refusal) : Option State :=
  match o with
  | .next s => some s
  | .fault _ => none
  | .refused _ => none

/-! ## Well-formed commands -/

theorem test_wellFormed_read : (Instr.portAccess .port0 (rd 0)).wellFormed = true := by decide
theorem test_wellFormed_write : (Instr.portAccess .port0 (wr 0 1)).wellFormed = true := by decide
theorem test_illFormed_read_with_data :
    (Instr.portAccess .port0 { rd 0 with data := [1] }).wellFormed = false := by decide
theorem test_illFormed_burst_write_with_one_word :
    (Instr.portAccess .port0 { wr 0 1 with burst := some 2 }).wellFormed = false := by decide
theorem test_illFormed_image_too_long :
    (Instr.imageReadEnd (List.replicate 2049 0xFF)).wellFormed = false := by decide +kernel

/-! ## Vectors of the spec -/

theorem test_check_columns_are_the_three_bit_values :
    dataColumns = (((List.range 128).filter (fun n =>
        ((List.range 7).map (fun i => n / 2 ^ i % 2)).sum == 3)).map (BitVec.ofNat 7)).take 32 := by
  decide +kernel
theorem test_crc_vector :
    crc32 [0x31, 0x32, 0x33, 0x34, 0x35, 0x36, 0x37, 0x38, 0x39] = 0xCBF43926 := by decide +kernel
theorem test_flipped_bit_is_corrected : checkClass 0x8000000F (goodCode 0x0000000F) = .corrected 0x0000000F := by
  decide +kernel
theorem test_no_row_gives_bits : decodeTableWord 32 0x22405A3C = none := rfl

theorem test_empty_range_shares_nothing : rangesOverlap 0x400000 0x80 0x400040 0 = false := by decide

/-! ## Single steps -/

theorem test_step_takes_the_front :
    after (step { State.reset with pending := [.imageReadEnd [], .fallbackApply] })
      = some { State.reset with
          loader := { Loader.fresh (.refused .signature 0) with wordsRead := 1 }, pending := [.fallbackApply] } := by decide +kernel
theorem test_loading_holds_an_access :
    after (exec (.portAccess .port0 (rd 3)) State.reset)
      = some (State.reset.setPort .port0
          { PortRecord.reset with phase := .held (rd 3), hold := .running 10000 }) := by decide +kernel
theorem test_misaligned_read_is_form :
    ∃ t, exec (.portAccess .port1 (rd 2)) rig = .next t ∧ (t.port .port1).answer = some ⟨[], some .form⟩
      ∧ (t.port .port1).faultCount = 1 ∧ t.globalStage .port1 GlobalFlag.accessFault.bit = .pending :=
  ⟨_, rfl, rfl, rfl, rfl⟩
theorem test_tick_in_loading_keeps_position :
    ∃ t, exec .microsecondTick State.reset = .next t ∧ t.usInMs = 0 := ⟨_, rfl, rfl⟩

/-! ## Witnesses of the statements' hypotheses -/

theorem free_of {s : State} {p : Port} (h1 : s.pinAsserted = false) (h2 : s.device ≠ .loading)
    (h3 : (s.port p).phase = .idle) (h4 : s.arbiter.lock = none) : s.free p :=
  ⟨⟨h1, h2⟩, h3, fun l h => by rw [h4] at h; cases h⟩

theorem rig_free (p : Port) : rig.free p := free_of rfl (by decide) (by cases p <;> rfl) rfl

theorem withChan_free (ch : Channel) (p : Port) : (withChan ch).free p :=
  free_of rfl (by intro h; cases h) (by cases p <;> rfl) rfl

theorem chan_withChan (ch : Channel) : (withChan ch).chan 0 = some ch := chan_setChan_same ..

theorem handed_of {p : Port} {a : Access} {off : Nat} {ch : Channel} (h1 : ch.state ≠ .off)
    (h2 : off + wordCount a ≤ ch.config.len) : (handedTo p a off ch).handed p a 0 off ch :=
  ⟨rfl, by cases p <;> rfl, chan_setChan_same .., h1, h2⟩

/-- Bank 0 fenced. -/
def down : State := rig.setBank 0 (bankWith cfgA .fenced)

/-- The access taken as the statements take it. -/
def tookAt (p : Port) (a : Access) (s : State) : State := s.setPort p (taken (s.port p) (.held a))

def op1 (write : Bool) (addrs : List Nat) (data : List Word) (tag : OpTag) : PortOp :=
  ⟨0, addrs, write, 4, 0, data, tag⟩

/-- The write of the upper two bytes of the word at 0x104. -/
def halfWrite : PortOp := ⟨0, [0x104], true, 2, 2, [5], .plain⟩

/-- The bank of the BCB fenced. -/
def bcbDown : State := rig.setBank 1 (bankWith cfgB .fenced)

theorem running_granted (p : Port) (a : Access) (op : PortOp) (s : State) (h : s.pinAsserted = false) :
    (granted p a op s).running p a op :=
  ⟨h, ⟨_, rfl⟩, by cases p <;> rfl⟩

/-- The word at 0x104 poisoned, and words with one and two flipped check bits. -/
def poisonedAt : State := storePoison 0x104 5 rig
def oneFlip : State := { rig with lanes := [(0x104, 1)] }
def twoFlips : State := { rig with lanes := [(0x104, 3)] }

/-- The copy of `chCopying` with its read waiting. -/
def job : CopyJob := ⟨0, 0, 1, 1, .readWaiting, none, 16, 0, 0x1000, 0x1040⟩

def copying (ch : Channel) (j : CopyJob) : State := (withChan ch).setEngine (.active j)

/-- The copy engine's operation holds the memory port. -/
def copyBusy (j : CopyJob) (s : State) : State :=
  (s.setEngine (.active j)).setBusy (some ⟨.copy, 0⟩)

/-- Depth 2, the newest frame in slot 0 and an older held one in slot 1, and both committed in a queue. -/
def chFull : Channel :=
  { ((live { cfgL with depth := 2 }).setSlot 0 (slotC 2)).setSlot 1 (slotC 1) with
    newest := some 0, held := .slot 1, frames := 2 }

def chQueued : Channel :=
  { ((live { cfgQ with depth := 2 }).setSlot 0 (slotC 1)).setSlot 1 (slotC 2) with
    committed := [0, 1], frames := 2 }

/-- The same with the head of the list held. -/
def chQueuedHeld : Channel := { chQueued with held := .slot 0 }

/-- The dirty set after a command. -/
def dirtyAfter (c : Instr) (s : State) : Option (List Nat) := (after (exec c s)).map (fun t => t.mirror.dirty)

theorem test_abort_with_nothing_in_flight_idles :
    (after (exec .copyAbortNotice { copying chFilling { job with flight := .none } with
        copy := ⟨[], .active { job with flight := .none }, true⟩ })).map (fun t => t.copy)
      = some ⟨[], .idle, false⟩ := by decide +kernel

theorem test_ack_raised_again_marks_its_word :
    dirtyAfter (.globalAck .port0) ((rig.setGlobalStage .port0 1 .posted).setPhase .port0
        (.handover (wr 0x1F028 2) 10 2 (some .unavailable)))
      = some [14, 67, 68, 69, 70, 71] := by decide +kernel

theorem test_departure_marks_both_bank_words :
    dirtyAfter (.storm 0) { rig with stormReports := [0] } = some [14, 15, 80, 81] := by decide +kernel

-- (a) the machine and the invariants

theorem witness_PinResetAndRelease :
    rig.arbiter.busy = none
    ∧ ({ rig with pinAsserted := true } : State).pinAsserted = true ∧ rig.pinAsserted = false
    ∧ Instr.microsecondTick ≠ .pinReset ∧ Instr.microsecondTick ≠ .pinResetRelease
    ∧ (granted .port0 (wr 0x100 1) (op1 true [0x100, 0x104] [1, 2] .plain) rig).arbiter.busy
        = some ⟨.port .port0, 0⟩
    ∧ ((granted .port0 (wr 0x100 1) (op1 true [0x100, 0x104] [1, 2] .plain) rig).port .port0).phase
        = .granted (wr 0x100 1) (op1 true [0x100, 0x104] [1, 2] .plain) := by decide

theorem witness_StepsMarkChangedWords :
    ∃ t, exec .millisecondAdvance { rig with usInMs := 1000 } = .next t ∧ t.device ≠ .loading
      ∧ mirrorWord { rig with usInMs := 1000 } 1 ≠ mirrorWord t 1 :=
  ⟨settle { rig with usInMs := 1000 }
      { tickMilliTimers { rig with usInMs := 1000 } with usInMs := 0, msCount := 1 },
    congrArg Host.Outcome.next (event_of_some rfl rfl), by decide, by rw [mirrorWord_settle]; decide⟩

theorem witness_Invariants :
    memoryCanonical poisonedAt
    ∧ dirtySetOrdered { rig with mirror := ⟨[0, 1023], 5, .none⟩ }
    ∧ fairnessBounded { rig with arbiter := ⟨none, none, .port1, 8, 0⟩ }
    ∧ loadingQuiet rig ∧ (∃ t, step { rig with pending := [.storm 3] } = .next t) := by
  refine ⟨⟨by decide +kernel, by decide +kernel⟩, ?_, ?_, ?_, _, rfl⟩
  · unfold dirtySetOrdered; simp [ascending]
  · unfold fairnessBounded; decide
  · exact ⟨(fun h => nomatch h), (fun h => nomatch h)⟩

theorem witness_ChannelsStayLawful : channelsLawful (withChan chCopying) ∧ channelsLawful (withChan chQueuedHeld) := by
  have one : ∀ x : Channel, x.lawful → channelsLawful (withChan x) := by
    intro x hx c ch h
    by_cases hc : c = 0
    · subst hc
      rw [chan_withChan] at h
      injection h with h
      subst h
      exact hx
    · rw [withChan, chan_setChan_ne _ _ hc] at h
      have hn : ∀ d, rig.chan d = none := by decide
      rw [hn c] at h
      cases h
  exact ⟨one _ (by unfold Channel.lawful; and_intros <;> decide), one _ (by unfold Channel.lawful; and_intros <;> decide)⟩

/-- A capture of a burst fault, a capture of an error, and a copy engine with a copy and a queue. -/
def shown : State :=
  { withChan chCopying with
    ports := ⟨{ PortRecord.reset with capture := ⟨some ⟨0x20004, true, 4, 8, false, .timeout, 7⟩, 255⟩ }, PortRecord.reset⟩
    memCapture := ⟨some ⟨0xFFFFFC, 3, .scrub, 9⟩, 1⟩
    copy := ⟨chanIds, .active ⟨15, 7, 6, 1, .none, none, 16, 0, 0, 0⟩, false⟩ }

theorem witness_MirrorWordLayouts :
    (∃ r, (shown.port .port0).capture.record = some r ∧ r.burst < 16)
    ∧ (shown.port .port1).capture.record = none ∧ rig.memCapture.record = none
    ∧ (∃ r, shown.memCapture.record = some r ∧ r.addr < 2 ^ 24)
    ∧ (∃ ph, ({ rig with scrub := ⟨.running .noBank, none, 4, .stopped, 0, none⟩ } : State).scrub.state = .running ph)
    ∧ ({ rig with scrub := ⟨.stopped, some 0xFFFFFC, 4, .stopped, 0, none⟩ } : State).scrub.position = some 0xFFFFFC
    ∧ shown.copy.queue.length = 16 ∧ (∃ j, shown.copy.state.job = some j) ∧ rig.copy.state.job = none
    ∧ rig.chan 15 = none ∧ shown.chan 0 = some chCopying
    ∧ chCopying.config.depth < 16 ∧ chCopying.committed.length < 16 ∧ chCopying.copy = .copying 1
    ∧ (∀ n, chFilling.copy ≠ .copying n) ∧ 2 < chCopying.config.depth ∧ chCopying.config.depth ≤ (3 : Fin 8).val :=
  ⟨⟨_, rfl, by decide⟩, by decide, by decide, ⟨_, rfl, by decide⟩, ⟨_, rfl⟩, by decide, by decide, ⟨_, rfl⟩, by decide,
    by decide, chan_withChan _, by decide, by decide, by decide, (fun _ h => nomatch h), by decide, by decide⟩

-- (b) time, ports and decoder

theorem witness_TimersCountDownAndExpire :
    rig.pinAsserted = false ∧ ({ rig with usInMs := 1000 } : State).operating
    ∧ (withChan { live cfgL with deadline := .due }).chan 0 = some { live cfgL with deadline := .due }
    ∧ (live cfgL).state = .live
    ∧ (withChan { live cfgL with deadline := .running 1 }).chan 0
        = some { live cfgL with deadline := .running 1 } :=
  ⟨rfl, ⟨rfl, by decide⟩, chan_withChan _, rfl, chan_withChan _⟩

theorem witness_AnswerEffects :
    State.reset.device = .loading ∧ rig.device ≠ .loading
    ∧ rig.bankOf ([0xFFFC].headD 0) = some 0 ∧ rig.inService 0 = true
    ∧ down.bankOf ([0].headD 0) = some 0 ∧ down.inService 0 = false := by decide

theorem witness_AccessTakenOrHeld :
    (State.reset.device = .loading ∧ (State.reset.port .port1).phase = .idle)
    ∧ (rig.free .port0 ∧ formOk (rd 2) = false)
    ∧ (rig.free .port0 ∧ formOk (rd 0x30000) = true
        ∧ decode .port0 (rd 0x30000) (tookAt .port0 (rd 0x30000) rig) = .refused .unmapped)
    ∧ ((withChan (live cfgL)).free .port1
        ∧ decode .port1 (rd 0x20000) (tookAt .port1 (rd 0x20000) (withChan (live cfgL))) = .window 0 0
        ∧ decode .port1 (rd 0x2003C) (tookAt .port1 (rd 0x2003C) (withChan (live cfgL))) = .window 0 15) :=
  ⟨by decide, ⟨rig_free _, by decide⟩, ⟨rig_free _, by decide, by decide⟩, withChan_free _ _, by decide, by decide⟩

def region7 : State := { rig with regions := rig.regions.set 7 ⟨true, 1, 2, ⟨.none, .readWrite⟩⟩ }

theorem witness_ClassificationOrder :
    rig.inBcb 0x1F000 = true ∧ rig.inBcb 0x1FFFF = true ∧ rig.inBcb 0x1EFFF = false ∧ rig.inBcb 0x20000 = false
    ∧ (withChan (live cfgL)).windowOf 0x20000 = some 0 ∧ (withChan (live cfgL)).windowOf 0x2003F = some 0
    ∧ (withChan (live cfgL)).windowOf 0x20040 = none
    ∧ (region7.regions.get 7).covers 0x100 = true ∧ (region7.regions.get 7).covers 0x2FF = true
    ∧ (∀ q : Fin 8, 7 < q → (region7.regions.get q).covers 0x100 = false)
    ∧ (∀ q : Fin 8, (region7.regions.get q).covers 0xFF = false)
    ∧ (∀ q : Fin 8, (region7.regions.get q).covers 0x300 = false) := by decide

theorem witness_BcbAccessChecked :
    rig.free .port0 ∧ rig.inBcb 0x1F000 = true ∧ rig.inService 1 = true
    ∧ (formOk { rd 0x1F000 with locked := true } = true ∧ formOk (burst (rd 0x1FFE0) 8) = true
        ∧ rig.bankOf (firstWord (burst (rd 0x1FFE0) 8)) = some 1)
    ∧ ((bcbDown.free .port0 ∧ bcbDown.inService 1 = false ∧ bcbDown.inBcb 0x1F000 = true)
        ∧ bcbDown.bankOf (firstWord (rd 0x1F000)) = some 1)
    ∧ (formOk { wr 0x1F000 0 with burst := some 3 } = true ∧ bcbWritable .port0 2 = true
        ∧ isSingleWord { wr 0x1F000 0 with burst := some 3 } = false)
    ∧ (formOk (wr 0x1F004 0) = true ∧ isSingleWord (wr 0x1F004 0) = true ∧ bcbWritable .port0 1 = false)
    ∧ (formOk (wr 0x1F008 0) = true ∧ bcbWritable .port0 ((0x1F008 - rig.bcbBase) / 4) = true
        ∧ rig.bankOf (firstWord (wr 0x1F008 0)) = some 1) :=
  ⟨rig_free _, by decide, by decide, by decide, ⟨⟨free_of rfl (by decide) rfl rfl, by decide⟩, by decide⟩, by decide,
    by decide, by decide⟩

theorem witness_PlainAccessPut :
    (rig.free .port1 ∧ formOk (rd 0xFFFC) = true
        ∧ decode .port1 (rd 0xFFFC) (tookAt .port1 (rd 0xFFFC) rig) = .memory
        ∧ rig.bankOf (firstWord (rd 0xFFFC)) = some 0 ∧ rig.inService 0 = true)
    ∧ (down.free .port1 ∧ decode .port1 (rd 0) (tookAt .port1 (rd 0) down) = .memory
        ∧ down.bankOf (firstWord (rd 0)) = some 0 ∧ down.inService 0 = false) :=
  ⟨⟨rig_free _, by decide, by decide, by decide, by decide⟩,
    free_of rfl (by decide) rfl rfl, by decide, by decide, by decide⟩

def locked100 : State := rig.setLock (some ⟨.port0, 0x100⟩)

theorem witness_LockedPair :
    (locked100.operating ∧ (locked100.port .port0).phase = .idle
        ∧ locked100.arbiter.lock = some ⟨.port0, 0x100⟩ ∧ isWriteHalf (rd 0x100) 0x100 = false)
    ∧ (isWriteHalf (wr 0x100 9) 0x100 = true ∧ locked100.windowOf 0x100 = none
        ∧ decode .port0 (wr 0x100 9) (tookAt .port0 (wr 0x100 9) locked100) = .memory
        ∧ locked100.bankOf 0x100 = some 0 ∧ locked100.inService 0 = true)
    ∧ ((granted .port0 (rd 0x100) (op1 false [0x100] [] (.lockedRead 0x100)) rig).running .port0 (rd 0x100)
          (op1 false [0x100] [] (.lockedRead 0x100)) ∧ rig.classAt 0x100 = .clean)
    ∧ (poisonedAt.isProtected 0 = true ∧ poisonedAt.classAt 0x104 = .poisoned)
    ∧ (granted .port0 (wr 0x100 9) (op1 true [0x100] [9] .writeHalf) rig).running .port0 (wr 0x100 9)
        (op1 true [0x100] [9] .writeHalf) :=
  ⟨⟨⟨rfl, by decide⟩, by decide⟩, by decide, ⟨running_granted _ _ _ _ rfl, by decide +kernel⟩,
    by decide +kernel, running_granted _ _ _ _ rfl⟩

/-- A port whose hold timer is due in a phase. -/
def dueIn (ph : PortPhase) (s : State) : State :=
  s.setPort .port0 { s.port .port0 with hold := .due, phase := ph }

theorem witness_HoldExpiryAnswered :
    ((dueIn (.held (rd 0)) rig).port .port0).hold = .due
    ∧ ((dueIn (.atChannel (rd 0) 0 1) rig).port .port0).phase = .atChannel (rd 0) 0 1
    ∧ ((dueIn (.keptBack (rd 0) (op1 false [0] [] .plain) 0 1) rig).port .port0).phase
        = .keptBack (rd 0) (op1 false [0] [] .plain) 0 1
    ∧ ((dueIn (.waitingCommit (wr 0 1) 0) (withChan chCopying)).chan 0 = some chCopying)
    ∧ ((dueIn (.atArbiter (wr 0 1) (op1 true [0] [1] (.commitWord 0 1))) rig).port .port0).phase
        = .atArbiter (wr 0 1) (op1 true [0] [1] (.commitWord 0 1))
    ∧ ((dueIn (.keptBack (rd 0) (op1 false [0] [] .plain) 0 1) rig).port (otherPort .port1)).phase
        = .keptBack (rd 0) (op1 false [0] [] .plain) 0 1
    ∧ rig.inService 0 = true :=
  ⟨rfl, rfl, rfl, chan_withChan _, rfl, rfl, by decide⟩

-- (c) memory operations, the arbiter

theorem witness_PortOperationEnds :
    ((granted .port0 (rd 0xFFFC) (op1 false [0xFFFC] [] .plain) rig).running .port0 (rd 0xFFFC)
        (op1 false [0xFFFC] [] .plain) ∧ rig.isProtected 0 = true ∧ rig.classAt 0xFFFC = .clean)
    ∧ ((granted .port0 (wr 0x100 1) (op1 true [0x100, 0x104] [1, 2] .plain) rig).running .port0 (wr 0x100 1)
        (op1 true [0x100, 0x104] [1, 2] .plain) ∧ Memory.wf rig.ram = true)
    ∧ ((granted .port1 (burst (rd 0x100) 2) (op1 false [0x100, 0x104] [] .plain) poisonedAt).running .port1
          (burst (rd 0x100) 2) (op1 false [0x100, 0x104] [] .plain)
        ∧ poisonedAt.isProtected 0 = true ∧ (∀ x ∈ [0x100], poisonedAt.classAt x = .clean)
        ∧ poisonedAt.classAt 0x104 = .poisoned)
    ∧ ((granted .port1 (burst (rd 0x100) 2) (op1 false [0x100, 0x104] [] .plain) twoFlips).running .port1
          (burst (rd 0x100) 2) (op1 false [0x100, 0x104] [] .plain)
        ∧ twoFlips.isProtected 0 = true ∧ (∀ x ∈ [0x100], twoFlips.classAt x = .clean)
        ∧ twoFlips.classAt 0x104 = .uncorrectable)
    ∧ ((granted .port1 (rd 0x104) (op1 false [0x104] [] .plain) oneFlip).running .port1 (rd 0x104)
          (op1 false [0x104] [] .plain) ∧ oneFlip.isProtected 0 = true ∧ oneFlip.classAt 0x104 = .corrected 0) :=
  ⟨⟨running_granted _ _ _ _ rfl, by decide +kernel⟩, ⟨running_granted _ _ _ _ rfl, by decide +kernel⟩,
    ⟨running_granted _ _ _ _ rfl, by decide +kernel⟩, ⟨running_granted _ _ _ _ rfl, by decide +kernel⟩,
    ⟨running_granted _ _ _ _ rfl, by decide +kernel⟩⟩

theorem witness_ReadAccessByClass :
    rig.isProtected 0 = true ∧ rig.classAt 0x104 = .clean ∧ oneFlip.classAt 0x104 = .corrected 0
    ∧ twoFlips.classAt 0x104 = .uncorrectable ∧ twoFlips.memCapture.record = none
    ∧ ({ twoFlips with memCapture := ⟨some ⟨0, 0, .scrub, 1⟩, 255⟩ } : State).memCapture.record ≠ none
    ∧ poisonedAt.classAt 0x104 = .poisoned ∧ Source.copy ≠ .port0 ∧ Source.copy ≠ .port1
    ∧ (rig.bank 0).config = some cfgA
    ∧ stormReached (rig.setBank 0 { bankWith cfgA .inService with ueCount := 1 }) 0 = true
    ∧ stormReached rig 0 = false := by decide +kernel

theorem witness_CheckCode :
    checkClass (dataBit 0 ^^^ dataBit 31) (goodCode 0) = .uncorrectable
    ∧ checkClass (dataBit 0) (goodCode 0 ^^^ checkBit 6) = .uncorrectable
    ∧ checkClass 0 (goodCode 0 ^^^ checkBit 0 ^^^ checkBit 6) = .uncorrectable := by decide +kernel

theorem witness_WritesToProtectedBanks :
    ((granted .port0 { wr 0x106 5 with size := 2 } halfWrite rig).running .port0 { wr 0x106 5 with size := 2 } halfWrite
        ∧ halfWrite.size ≠ 4)
    ∧ (rig.isProtected 1 = false ∧ rig.isProtected 0 = true ∧ rig.classAt 0x104 = .clean
        ∧ oneFlip.classAt 0x104 = .corrected 0 ∧ twoFlips.classAt 0x104 = .uncorrectable
        ∧ poisonedAt.classAt 0x104 = .poisoned ∧ Memory.wf poisonedAt.ram = true
        ∧ Memory.wf poisonedAt.lanes = true) :=
  ⟨⟨running_granted _ _ _ _ rfl, by decide⟩, by decide +kernel⟩

def portWaiting (p : Port) (s : State) : State := s.setPhase p (.atArbiter (rd 0) (op1 false [0] [] .plain))

theorem witness_GrantOrder :
    (rig.setProbe 1 .waiting).probeWaits 1 = true ∧ (rig.setProbe 1 .waiting).probeWaits 0 = false
    ∧ (∀ b, (copying chCopying job).probeWaits b = false) ∧ (copying chCopying job).copyWaits = true
    ∧ ({ copying chCopying job with arbiter := ⟨none, none, .port1, 8, 0⟩ } : State).arbiter.copyPass = 8
    ∧ ({ rig with mirror := ⟨[], 0, .waiting 3⟩, arbiter := ⟨none, none, .port1, 0, 8⟩ } : State).mirrorWaits = true
    ∧ (portWaiting .port0 rig).portWaits (otherPort rig.arbiter.lastPort) = true
    ∧ (portWaiting .port1 rig).portWaits rig.arbiter.lastPort = true
    ∧ (portWaiting .port1 rig).portWaits (otherPort rig.arbiter.lastPort) = false
    ∧ rig.portWaits .port0 = false ∧ rig.portWaits .port1 = false := by decide

theorem witness_Grants :
    (rig.pinAsserted = false ∧ rig.arbiter.busy = none ∧ rig.arbiter.lock = none ∧ copyToDeal rig = none)
    ∧ pick (portWaiting .port0 rig) = some (.port .port0)
    ∧ ((portWaiting .port0 rig).port .port0).phase = .atArbiter (rd 0) (op1 false [0] [] .plain)
    ∧ locked100.arbiter.lock ≠ none
    ∧ pick { rig with mirror := ⟨[3], 0, .waiting 3⟩ } = some .mirror ∧ rig.bcbBank = some 1
    ∧ (pick (copying chCopying job) = some .copy ∧ jobCopying (copying chCopying job) job = true)
    ∧ (pick (copying chCopying { job with flight := .writeWaiting }) = some .copy
        ∧ jobCopying (copying chCopying { job with flight := .writeWaiting }) job = true
        ∧ jobClaimed (copying chCopying job) job 1 = false)
    ∧ jobClaimed (copying (chCopying.setSlot 1 { slotF with written := [1] }) job) job 1 = true
    ∧ jobCopying (copying chFilling job) job = false
    ∧ (let s := rig.setBank 0 { bankWith cfgA .probing with probe := .waiting }
       pick s = some (.probe 0) ∧ (s.bank 0).config = some cfgA ∧ (s.bank 0).service = .probing)
    ∧ (let s := rig.setBank 0 { bankWith cfgA .fenced with probe := .waiting }
       pick s = some (.probe 0) ∧ (s.bank 0).service ≠ .probing
        ∧ pick (s.setBank 0 { s.bank 0 with probe := .none }) = none)
    ∧ (let s : State := { rig with scrub := ⟨.running .requesting, some 0xFFFC, 0, .stopped, 0, none⟩ }
       pick s = some .scrub ∧ s.bankOf 0xFFFC = some 0)
    ∧ copyToDeal (copying chCopying { job with flight := .none }) = some { job with flight := .none }
    ∧ (let s := copying chCopying { job with flight := .none }
       pick (copyAdvance { job with flight := .none } s) = some .copy
        ∧ (copyAdvance { job with flight := .none } s).copy.state = .active job ∧ job.flight = .readWaiting)
    ∧ (let s := (copying chCopying { job with flight := .none, next := 16 })
       copyToDeal s = some { job with flight := .none, next := 16 }
        ∧ pick (copyAdvance { job with flight := .none, next := 16 } s) = none) := by decide

theorem witness_ReadyTimeoutEndsOperation :
    (rig.operating ∧ rig.readyDue 0 [] 20 = true ∧ rig.readyDue 0 [20] 40 = true ∧ rig.readyDue 0 [20] 39 = false
      ∧ rig.readyDue 0 [21] 100 = false ∧ busyBank (.scrub 0 0xFFFC) rig = some 0 ∧ rig.readyDue 1 [] 100 = false)
    ∧ (let s := (granted .port0 (burst (wr 0 1) 2) (op1 true [0, 4] [1, 2] .plain) rig).setBusy
        (some ⟨.port .port0, 40⟩)
       s.operating ∧ (s.port .port0).phase = .granted (burst (wr 0 1) 2) (op1 true [0, 4] [1, 2] .plain)
        ∧ s.readyDue 0 [20] 40 = true)
    ∧ (let s := (granted .port0 (burst (rd 0) 2) (op1 false [0, 4] [] .plain) rig).setBusy (some ⟨.port .port0, 40⟩)
       s.operating ∧ (s.port .port0).phase = .granted (burst (rd 0) 2) (op1 false [0, 4] [] .plain)
        ∧ ∀ addr ∈ [0], s.classAt addr = .clean)
    ∧ (let s := (granted .port0 { wr 0x106 5 with size := 2 } halfWrite rig).setBusy (some ⟨.port .port0, 40⟩)
       (s.port .port0).phase = .granted { wr 0x106 5 with size := 2 } halfWrite ∧ s.classAt 0x104 = .clean
        ∧ s.isProtected halfWrite.bank = true)
    ∧ ((copyBusy { job with flight := .reading } (withChan chCopying)).copy.state = .active { job with flight := .reading }
        ∧ (withChan chCopying).readyDue job.bank [] 20 = true)
    ∧ (let w : MirrorWrite := ⟨14, 0, 0xF038, 1, [0]⟩
       ({ rig with mirror := ⟨[], 14, .inFlight w⟩ } : State).mirror.request = .inFlight w
        ∧ rig.readyDue w.bank [] 20 = true)
    ∧ (rig.setBank 0 { bankWith cfgA .probing with probe := .inFlight }).readyDue 0 [] 20 = true :=
  ⟨⟨⟨rfl, by decide⟩, by decide⟩, ⟨⟨rfl, by intro h; cases h⟩, rfl, by decide⟩,
    ⟨⟨rfl, by intro h; cases h⟩, rfl, by decide +kernel⟩, ⟨rfl, by decide +kernel⟩, ⟨rfl, by decide⟩, ⟨rfl, by decide⟩,
    by decide⟩

-- (d) window accesses

theorem witness_WriterWrites :
    (handedTo .port0 (wr 0x2003C 5) 15 chFilling).handed .port0 (wr 0x2003C 5) 0 15 chFilling
    ∧ chFilling.config.writer = .port0 ∧ chFilling.filling = some 1
    ∧ (handedTo .port0 (wr 0x20004 5) 1 chNewest).handed .port0 (wr 0x20004 5) 0 1 chNewest
    ∧ chNewest.filling = none
    ∧ (∃ t ch1, openSlot 0 chNewest (handedTo .port0 (wr 0x20004 5) 1 chNewest) = some t ∧ t.chan 0 = some ch1
        ∧ ch1.filling = some 1 ∧ ch1.copy = .queued)
    ∧ (∃ t ch1, openSlot 0 (live cfgQ) (handedTo .port0 (wr 0x20000 5) 0 (live cfgQ)) = some t
        ∧ t.chan 0 = some ch1 ∧ ch1.filling = some 0 ∧ ch1.copy = .none)
    ∧ isSingleWord (wr 0x20000 5) = true ∧ beatData (wr 0x20000 5) 0 ≠ 0 :=
  ⟨handed_of (by decide) (by decide), rfl, rfl, handed_of (by decide) (by decide), rfl,
    ⟨_, _, rfl, rfl, rfl, rfl⟩, ⟨_, _, rfl, rfl, rfl, rfl⟩, by decide, by decide⟩

theorem witness_OpenChoosesSlot :
    (chNewest.takable 1 = true ∧ (∀ j : Fin 8, j < 1 → chNewest.takable j = false)
        ∧ chNewest.carrySource = some 0)
    ∧ ((live cfgL).takable 0 = true ∧ (live cfgL).carrySource = none)
    ∧ ((∀ i, chFull.takable i = false) ∧ chFull.droppable 0 = true ∧ ∀ j : Fin 8, j < 0 → chFull.droppable j = false)
    ∧ ((∀ i, chQueued.takable i = false) ∧ chQueued.config.mode = .queue)
    ∧ ((∀ i, ({ chFull with bankUp := false } : Channel).takable i = false)
        ∧ ∀ i, ({ chFull with bankUp := false } : Channel).droppable i = false) := by decide

theorem witness_RefusedOpenAnsweredBlocked :
    (handedTo .port0 (wr 0x20004 5) 1 chQueued).handed .port0 (wr 0x20004 5) 0 1 chQueued
    ∧ (handedTo .port0 (wr 0x20000 5) 0 chQueued).handed .port0 (wr 0x20000 5) 0 0 chQueued
    ∧ chQueued.filling = none ∧ openSlot 0 chQueued (handedTo .port0 (wr 0x20004 5) 1 chQueued) = none
    ∧ openSlot 0 chQueued (handedTo .port0 (wr 0x20000 5) 0 chQueued) = none :=
  ⟨handed_of (by decide) (by decide), handed_of (by decide) (by decide), rfl, rfl, rfl⟩

theorem witness_WriterReadsServed :
    (handedTo .port0 (rd 0x2003C) 15 chFilling).handed .port0 (rd 0x2003C) 0 15 chFilling
    ∧ chFilling.filling = some 1 ∧ chFilling.copy = .none
    ∧ (handedTo .port0 (rd 0x20004) 1 chCopying).handed .port0 (rd 0x20004) 0 1 chCopying
    ∧ chCopying.copy = .copying 1 ∧ chCopying.copySourceSlot = some 0
    ∧ (handedTo .port0 (rd 0x20004) 1 { chCopying with copy := .queued }).handed .port0 (rd 0x20004) 0 1
        { chCopying with copy := .queued }
    ∧ (handedTo .port0 (rd 0x20000) 0 chNewest).handed .port0 (rd 0x20000) 0 0 chNewest
    ∧ chNewest.lastFrame = some 0 ∧ (live cfgQ).lastFrame = none ∧ chQueued.lastFrame = some 1
    ∧ isSingleWord (rd 0x20000) = true :=
  ⟨handed_of (by decide) (by decide), rfl, rfl, handed_of (by decide) (by decide), rfl, by decide,
    handed_of (by decide) (by decide), handed_of (by decide) (by decide), rfl, rfl, rfl, rfl⟩

theorem witness_CommitAndDiscard :
    (handedTo .port0 (wr 0x20000 5) 0 chFilling).handed .port0 (wr 0x20000 5) 0 0 chFilling
    ∧ chFilling.copy = .none ∧ beatData (wr 0x20000 5) 0 ≠ 0
    ∧ (handedTo .port0 (wr 0x20000 5) 0 chCopying).handed .port0 (wr 0x20000 5) 0 0 chCopying
    ∧ chCopying.filling = some 1 ∧ chCopying.copy ≠ .none
    ∧ (handedTo .port0 (wr 0x20000 0) 0 chCopying).handed .port0 (wr 0x20000 0) 0 0 chCopying
    ∧ beatData (wr 0x20000 0) 0 = 0
    ∧ (handedTo .port0 (wr 0x20000 0) 0 chNewest).handed .port0 (wr 0x20000 0) 0 0 chNewest
    ∧ chNewest.filling = none :=
  ⟨handed_of (by decide) (by decide), rfl, by decide, handed_of (by decide) (by decide), rfl, by decide,
    handed_of (by decide) (by decide), rfl, handed_of (by decide) (by decide), rfl⟩

def staleL : Channel := { chNewest with state := .stale }

theorem witness_ReaderTagReadSnapshots :
    (handedTo .port1 (rd 0x20000) 0 staleL).handed .port1 (rd 0x20000) 0 0 staleL
    ∧ staleL.config.policy = .substitute ∧ staleL.config.substitute = some 0x2000
    ∧ commitOutstanding .port1 0 0 (handedTo .port1 (rd 0x20000) 0 staleL) = false
    ∧ (handedTo .port1 (rd 0x20000) 0 chNewest).handed .port1 (rd 0x20000) 0 0 chNewest
    ∧ chNewest.releaseLatest.newest = some 0 ∧ (live cfgL).releaseLatest.newest = none
    ∧ (handedTo .port1 (rd 0x20000) 0 chQueued).handed .port1 (rd 0x20000) 0 0 chQueued
    ∧ chQueued.committed = [0, 1] ∧ chQueued.held = .none
    ∧ ({ chQueued with held := .slot 0 } : Channel).held = .slot 0 ∧ (live cfgQ).committed = []
    ∧ chNewest.tagSnapshot.held = .slot 0 ∧ chNewest.tagSnapshot.config = chNewest.config
    ∧ commitOutstanding .port1 0 0
        ((handedTo .port1 (rd 0x20000) 0 chNewest).setPhase .port0
          (.atArbiter (wr 0x20000 5) (op1 true [0x1000] [5] (.commitWord 0 0)))) = true
    ∧ (handedTo .port1 (rd 0x20000) 0 chNewest).bankOf (chNewest.config.slotAddr 0) = some 0 :=
  ⟨handed_of (by decide) (by decide), rfl, rfl, by decide, handed_of (by decide) (by decide), by decide, by decide,
    handed_of (by decide) (by decide), rfl, rfl, rfl, rfl, by decide, by decide, by decide, by decide⟩

theorem witness_ReaderDataReadServed :
    (handedTo .port1 (rd 0x20004) 1 { chFull with state := .stale }).handed .port1 (rd 0x20004) 0 1
        { chFull with state := .stale }
    ∧ chFull.held = .slot 1
    ∧ (handedTo .port1 (rd 0x2003C) 15 { staleL with held := .substitute }).handed .port1 (rd 0x2003C) 0 15
        { staleL with held := .substitute }
    ∧ ((handedTo .port1 (rd 0x2003C) 15 staleL).handed .port1 (rd 0x2003C) 0 15 staleL ∧ staleL.held = .none
        ∧ staleL.config.mode = .latest ∧ staleL.state = .stale ∧ staleL.config.substitute = some 0x2000)
    ∧ ((handedTo .port1 (rd 0x20004) 1 (live cfgL)).handed .port1 (rd 0x20004) 0 1 (live cfgL)
        ∧ (live cfgL).held = .none ∧ (live cfgL).newest = none ∧ (live cfgL).state ≠ .stale)
    ∧ chNewest.held = .none ∧ chNewest.newest = some 0 ∧ chNewest.state ≠ .stale
    ∧ chQueued.held = .none ∧ chQueued.committed = [0, 1] ∧ (live cfgQ).committed = [] :=
  ⟨handed_of (by decide) (by decide), rfl, handed_of (by decide) (by decide),
    ⟨handed_of (by decide) (by decide), rfl, rfl, rfl, rfl⟩, ⟨handed_of (by decide) (by decide), rfl, rfl, by decide⟩,
    rfl, rfl, by decide, rfl, rfl, rfl⟩

theorem witness_Releases :
    (handedTo .port1 (wr 0x20000 0) 0 chFull).handed .port1 (wr 0x20000 0) 0 0 chFull
    ∧ chFull.valid 1 = true ∧ chFull.newest ≠ some 1
    ∧ ({ chFull with held := .slot 0 } : Channel).newest = some 0
    ∧ ({ chFull with bankUp := false } : Channel).valid 1 = false
    ∧ ({ staleL with held := .substitute } : Channel).held = .substitute
    ∧ (handedTo .port1 (wr 0x20000 7) 0 { chQueued with held := .slot 0 }).handed .port1 (wr 0x20000 7) 0 0
        { chQueued with held := .slot 0 }
    ∧ chQueued.held = .none :=
  ⟨handed_of (by decide) (by decide), by decide, by decide, rfl, by decide, rfl, handed_of (by decide) (by decide),
    rfl⟩

theorem witness_WindowChecks :
    (handedTo .port1 (wr 0x2003C 5) 15 chNewest).handed .port1 (wr 0x2003C 5) 0 15 chNewest
    ∧ chNewest.config.writer ≠ .port1
    ∧ (handedTo .port0 (burst (wr 0x20000 5) 2) 0 chNewest).handed .port0 (burst (wr 0x20000 5) 2) 0 0 chNewest
    ∧ isSingleWord (burst (wr 0x20000 5) 2) = false ∧ beatData (burst (wr 0x20000 5) 2) 0 ≠ 0
    ∧ (handedTo .port0 (burst (wr 0x20000 0) 8) 0 chNewest).handed .port0 (burst (wr 0x20000 0) 8) 0 0 chNewest
    ∧ (handedTo .port1 (burst (rd 0x20000) 2) 0 chNewest).handed .port1 (burst (rd 0x20000) 2) 0 0 chNewest
    ∧ (handedTo .port0 (burst (rd 0x20000) 2) 0 chNewest).handed .port0 (burst (rd 0x20000) 2) 0 0 chNewest
    ∧ (handedTo .port1 (burst (wr 0x20000 0) 2) 0 chNewest).handed .port1 (burst (wr 0x20000 0) 2) 0 0 chNewest :=
  ⟨handed_of (by decide) (by decide), by decide, handed_of (by decide) (by decide), by decide, by decide,
    handed_of (by decide) (by decide), handed_of (by decide) (by decide), handed_of (by decide) (by decide),
    handed_of (by decide) (by decide)⟩

theorem witness_NoticesTakenAtChannel :
    ({ live cfgL with state := .off, notices := [.leaving] } : Channel).notices = [.leaving]
    ∧ (∀ i, ((live cfgL).slot i).state ≠ .committed)
    ∧ leavesUse chFull 0 = true ∧ leavesUse chFull 1 = false ∧ chFull.filling = none ∧ chFull.state ≠ .off
    ∧ ({ chFull with notices := [.entering, .leaving] } : Channel).notices = [.entering, .leaving]
    ∧ (let ch : Channel := { (live cfgL).setSlot 2 slotF with filling := some 2, notices := [.leaving] }
       (ch.slot 2).state = .filling ∧ (2 : Nat) < ch.config.depth ∧ ch.valid 2 = true
        ∧ ∀ k, leavesUse ch k = false)
    ∧ (let ch : Channel := { chCopying with notices := [.leaving] }
       ch.filling = some 1 ∧ (ch.slot 1).state = .filling ∧ ch.valid 1 = true ∧ leavesUse ch 0 = true)
    ∧ ((rig.setPhase .port0 (.waitingCommit (wr 0x20000 9) 0)).port .port0).phase = .waitingCommit (wr 0x20000 9) 0
    ∧ (∀ a, (rig.port .port0).phase ≠ .waitingCommit a 0) :=
  ⟨by decide, by decide, by decide, by decide, by decide, by decide, by decide, by decide, by decide, rfl,
    fun _ h => nomatch h⟩

-- (e) the copy engine, mirror writer, flags, handovers

theorem witness_CopyTakesHead :
    (let ch : Channel := { chCopying with copy := .queued }
     let s : State := { withChan ch with copy := ⟨[0], .idle, false⟩ }
     s.copy = ⟨[0], .idle, false⟩ ∧ s.chan 0 = some ch ∧ ch.filling = some 1 ∧ ch.copySourceSlot = some 0
      ∧ s.bankOf ch.config.slotBase = some 0 ∧ 1 ≤ 15 ∧ 15 < ch.config.len
      ∧ (ch.slot 1).written.contains 15 = false)
    ∧ (let ch : Channel :=
        { chCopying.setSlot 1 { slotF with written := List.range' 1 15 } with copy := .queued }
       1 ≤ ch.config.len ∧ ∀ x : Fin 16, 1 ≤ x.val → (ch.slot 1).written.contains x.val = true)
    ∧ ({ copying chCopying job with copy := ⟨[], .active job, true⟩ } : State).copy.abortNotice = true
    ∧ job.flight ≠ .none ∧ ({ job with flight := .none } : CopyJob).flight = .none
    ∧ ({ rig with copy := ⟨[], .ending job .failure, true⟩ } : State).copy.abortNotice = true := by decide

theorem witness_CopyOperationEnds :
    (copyBusy { job with flight := .reading } (withChan chCopying)).arbiter.busy = some ⟨.copy, 0⟩
    ∧ (withChan chCopying).inService job.bank = true ∧ rig.classAt job.sourceAddr = .clean
    ∧ (storePoison job.sourceAddr 3 rig).classAt job.sourceAddr = .poisoned ∧ rig.isProtected job.bank = true
    ∧ ({ job with flight := .writing, word := some ⟨3, true⟩ } : CopyJob).word = some ⟨3, true⟩
    ∧ (withChan chCopying).chan job.channel = some chCopying ∧ chCopying.copy = .copying 1
    ∧ job.next < job.len ∧ (chCopying.slot job.target).written.contains job.next = false
    ∧ ((chCopying.setSlot 1 { slotF with written := [1] }).slot job.target).written.contains job.next = true
    ∧ (down.setChan 0 (some chCopying)).inService job.bank = false
    ∧ ({ job with next := 16 } : CopyJob).next = job.len
    ∧ ({ job with flight := .timedOut } : CopyJob).flight = .timedOut
    ∧ (let s := (rig.setEngine (.draining { job with flight := .reading })).setBusy (some ⟨.copy, 3⟩)
       s.copy.state = .draining { job with flight := .reading } ∧ s.arbiter.busy = some ⟨.copy, 3⟩) := by
  decide +kernel

theorem witness_CopyReportsTaken :
    (let s : State := { withChan chCopying with copy := ⟨[], .ending job .completion, false⟩ }
     s.copy.state = .ending job .completion ∧ s.chan job.channel = some chCopying ∧ chCopying.waiting = none)
    ∧ (let s : State := { withChan chCopying with copy := ⟨[], .ending job .failure, false⟩ }
       s.copy.state = .ending job .failure ∧ chCopying.filling = some 1
        ∧ (s.port chCopying.config.writer).phase = .idle)
    ∧ (let s : State := ({ withChan chCopying with copy := ⟨[], .ending job .failure, false⟩ } : State).setPhase .port0
        (.waitingCommit (wr 0x20000 9) 0)
       s.copy.state = .ending job .failure
        ∧ (s.port chCopying.config.writer).phase = .waitingCommit (wr 0x20000 9) job.channel)
    ∧ chFilling.copy = .none
    ∧ (let ch : Channel := { chCopying with waiting := some 9 }
       let s : State := ({ withChan ch with copy := ⟨[], .ending job .completion, false⟩ } : State).setPhase .port0
        (.waitingCommit (wr 0x20000 9) 0)
       s.chan job.channel = some ch ∧ ch.waiting = some 9
        ∧ (s.port ch.config.writer).phase = .waitingCommit (wr 0x20000 9) job.channel) := by decide

theorem witness_MirrorWriter :
    (let s : State := { rig with mirror := ⟨[0, 5, 1023], 0, .none⟩ }
     s.operating ∧ s.bcbInService = true ∧ 5 ∈ s.mirror.dirty ∧ s.mirror.last < 5
      ∧ (∀ k ∈ s.mirror.dirty, s.mirror.last < k → 5 ≤ k) ∧ dirtySetOrdered s)
    ∧ (let s : State := { rig with mirror := ⟨[0, 5], 1023, .none⟩ }
       ∀ k ∈ s.mirror.dirty, k ≤ s.mirror.last ∧ 0 ≤ k)
    ∧ bcbDown.bcbInService = false
    ∧ (let w : MirrorWrite := ⟨14, 1, 0x1F038, 1, [0]⟩
       ({ rig with mirror := ⟨[], 14, .inFlight w⟩, arbiter := ⟨some ⟨.mirror, 0⟩, none, .port1, 0, 0⟩ }
        : State).mirror.request = .inFlight w ∧ rig.inService w.bank = true ∧ bcbDown.inService w.bank = false)
    ∧ ({ rig with mirror := ⟨[], 14, .timedOut 14⟩ } : State).mirror.request = .timedOut 14
    ∧ memoryCanonical rig := by
  refine ⟨⟨⟨rfl, by decide⟩, by decide, by decide, by decide, by decide, ?_⟩, by decide, by decide, by decide,
    by decide, by decide, by decide⟩
  unfold dirtySetOrdered
  simp [ascending]

theorem witness_FlagsAndCommandHandover :
    rig.globalStage .port0 GlobalFlag.cmdDone.bit = .clear
    ∧ (rig.setGlobalStage .port0 GlobalFlag.cmdDone.bit .posted).globalStage .port0 GlobalFlag.cmdDone.bit ≠ .clear
    ∧ rig.channelStage 15 ChannelFlag.commit.bit = .clear
    ∧ (rig.setChannelStage 15 ChannelFlag.commit.bit .pending).channelStage 15 ChannelFlag.commit.bit ≠ .clear
    ∧ rig.device ≠ .loading ∧ (rig.command .port0).state = .idle
    ∧ ((withCommand .port0 0x0E rig).command .port0).state ≠ .idle
    ∧ (⟨1, [0x1F008], true, 4, 0, [0x0E], .bcb 2⟩ : PortOp).tag = .bcb (2 + portNat .port0)
    ∧ (granted .port0 (wr 0x1F008 0x0E) ⟨1, [0x1F008], true, 4, 0, [0x0E], .bcb 2⟩ rig).running .port0
        (wr 0x1F008 0x0E) ⟨1, [0x1F008], true, 4, 0, [0x0E], .bcb 2⟩
    ∧ (granted .port0 (wr 0x1F018 1) ⟨1, [0x1F018], true, 4, 0, [1], .bcb 6⟩ rig).running .port0
        (wr 0x1F018 1) ⟨1, [0x1F018], true, 4, 0, [1], .bcb 6⟩ ∧ 6 ≠ 2 + portNat .port0 :=
  ⟨by decide, by decide, by decide, by decide, by decide, by decide, by decide, by decide,
    running_granted _ _ _ _ rfl, running_granted _ _ _ _ rfl, by decide⟩

/-- A handover waits at port 0. -/
def handing (off : Nat) (v : Word) : State := rig.setPhase .port0 (.handover (wr 0x1F000 v) off v none)

theorem witness_Handovers :
    (∀ off ∈ [6, 7, 8, 9, 10, 11, 12, 13, 32 + 16 * portNat .port0, 32 + 16 * portNat .port0 + 15],
      ((handing off 7).port .port0).phase = .handover (wr 0x1F000 7) off 7 none)
    ∧ (0x0100 : Word).toNat % 256 = (0 : ChanId).val ∧ (withChan chNewest).chan 0 = some chNewest
    ∧ (0x010F : Word).toNat % 256 = (15 : ChanId).val ∧ (withChan chNewest).chan 15 = none
    ∧ 16 ≤ (0x0110 : Word).toNat % 256 := by decide

-- (f) scrubber, bank health, commands, loader

/-- A scrub read of the word before the last of bank 0, at a pace. -/
def scrubReading (interval : BitVec 16) : State :=
  { rig with
    scrub := ⟨.running .reading, some 0xFFF8, interval, .stopped, 0, none⟩
    arbiter := ⟨some ⟨.scrub 0 0xFFF8, 20⟩, none, .port1, 0, 0⟩ }

/-- Bank 0 fenced, bank 1 with the check code. -/
def twoBanks : State := down.setBank 1 (bankWith { cfgB with checkCode := true } .inService)

theorem witness_Scrubber :
    (let s : State := { rig with scrub := ⟨.running .pacing, some 0, 4, .due, 0, none⟩ }
     s.scrub.state = .running .pacing ∧ s.scrub.timer = .due)
    ∧ ((scrubReading 4).operating ∧ (scrubReading 4).arbiter.busy = some ⟨.scrub 0 0xFFF8, 20⟩
        ∧ (scrubReading 4).isProtected 0 = true ∧ (scrubReading 4).classAt 0xFFF8 = .clean
        ∧ ((scrubReading 4).bank 0).lastWord 0xFFF8 = false ∧ stopWaiting (scrubReading 4) = none
        ∧ (scrubReading 4).scrub.interval ≠ 0 ∧ (scrubReading 0).scrub.interval = 0)
    ∧ stopWaiting ((scrubReading 4).setCommand .port1 ⟨.executing 0x0C, 0x0C, .pending, none⟩) = some .port1
    ∧ (let s : State := { rig with scrub := ⟨.running .reading, some 0xFFF8, 4, .stopped, 0, some 0xFFF8⟩ }
       s.arbiter.busy = none ∧ s.scrub.timedOut = some 0xFFF8 ∧ s.bankOf 0xFFF8 = some 0)
    ∧ (rig.bank 0).lastWord 0xFFFC = true ∧ rig.eligibleFrom 0x10000 = none ∧ rig.eligibleFrom 0 = some 0
    ∧ rig.scrub.position ≠ some 0xFFFC ∧ rig.scrubIn 0 = false
    ∧ (let s : State := { twoBanks with scrub := ⟨.running .requesting, some 0x100, 4, .stopped, 0, none⟩ }
       s.scrubIn 0 = true ∧ s.eligibleFrom (s.bankBase 0) = some 0x10000)
    ∧ (let s : State := { rig with scrub := ⟨.running .requesting, some 0x10100, 4, .stopped, 0, none⟩ }
       s.scrubIn 1 = true ∧ s.eligibleFrom (s.bankBase 1) = none ∧ s.eligibleFrom 0 = some 0)
    ∧ (let s : State := { down with scrub := ⟨.running .requesting, some 0x100, 4, .stopped, 0, none⟩ }
       s.scrubIn 0 = true ∧ s.eligibleFrom (s.bankBase 0) = none ∧ s.eligibleFrom 0 = none)
    ∧ (let x : Scrubber := ⟨.running .noBank, none, 4, .stopped, 0, none⟩
       x.position = none ∧ x.state = .running .noBank ∧ x.interval ≠ 0)
    ∧ (withCommand .port1 0x0B rig).takes .port1 0x0B ∧ (withCommand .port1 0x0C rig).takes .port1 0x0C
    ∧ commandCode 0x0B = 0x0B ∧ commandCode 0x0C = 0x0C ∧ rig.scrub.state = .stopped :=
  ⟨by decide, ⟨⟨rfl, by decide⟩, by decide +kernel⟩, by decide, by decide, by decide, by decide, by decide, by decide,
    by decide, by decide, by decide, by decide, by decide,
    ⟨⟨rfl, by decide⟩, by decide, by decide⟩, ⟨⟨rfl, by decide⟩, by decide, by decide⟩, by decide⟩

theorem witness_FaultsTakeBankOut :
    ({ rig with timeoutReports := [1, 0] } : State).timeoutReports.contains 0 = true
    ∧ (rig.bank 0).config = some cfgA ∧ (rig.bank 0).service = .inService ∧ cfgA.retryMode ≠ .off
    ∧ cfgA.retryPeriod ≠ 0 ∧ (rig.bank 1).config = some cfgB ∧ cfgB.retryMode = .off
    ∧ (down.bank 0).service ≠ .inService ∧ (down.bank 0).config = some cfgA
    ∧ ({ rig with stormReports := [0] } : State).stormReports.contains 0 = true
    ∧ (withChan chFull).chan 0 = some chFull
    ∧ ((portWaiting .port0 rig).port .port0).phase = .atArbiter (rd 0) (op1 false [0] [] .plain) := by decide

theorem witness_RetryAndProbe :
    (let s := rig.setBank 0 { bankWith cfgA .retryWait with retryTimer := .due }
     (s.bank 0).service = .retryWait ∧ (s.bank 0).retryTimer = .due)
    ∧ (let s := (rig.setBank 0 { bankWith cfgA .probing with probe := .inFlight }).setBusy
        (some ⟨.probe 0 0, 20⟩)
       (s.bank 0).service = .probing ∧ (s.bank 0).probe = .inFlight ∧ s.arbiter.busy = some ⟨.probe 0 0, 20⟩)
    ∧ ({ bankWith cfgA .fenced with probe := .discarded } : Bank).probe = .discarded
    ∧ (let s := rig.setBank 0 { bankWith cfgA .probing with probe := .timedOut }
       s.arbiter.busy = none ∧ (s.bank 0).probe = .timedOut ∧ (s.bank 0).rfull = false
        ∧ cfgA.retryMode = .limited)
    ∧ ({ bankWith cfgA .probing with probe := .timedOut, rfull := true, retries := 15 } : Bank).rfull = true
    ∧ ({ cfgA with retryMode := .unlimited } : BankConfig).retryMode = .unlimited := by decide +kernel

/-- A command word of code, argument a and argument b. -/
def cmd (code a b : Nat) : Word := BitVec.ofNat 32 (code + 256 * a + 65536 * b)

theorem takes_of (w : Word) (s : State) (h1 : s.pinAsserted = false) (h2 : s.device ≠ .loading)
    (h3 : executorBusy (withCommand .port0 w s) = false)
    (h4 : oldestPending (withCommand .port0 w s) = some (.port0, w)) :
    (withCommand .port0 w s).takes .port0 w :=
  ⟨⟨h1, h2⟩, h3, h4⟩

theorem witness_CommandExecution :
    oldestPending { rig with commands := ⟨⟨.pending 1 4, 1, .pending, none⟩, ⟨.pending 2 3, 2, .pending, none⟩⟩ }
        = some (.port1, 2)
    ∧ (withCommand .port0 (cmd 0x10 0 0) rig).takes .port0 (cmd 0x10 0 0) ∧ 0x0F < commandCode (cmd 0x10 0 0)
    ∧ (∀ x ∈ channelCommands, commandCode (cmd x.1 16 0) = x.1 ∧ commandArgA (cmd x.1 16 0) = 16
        ∧ oldestPending (withCommand .port0 (cmd x.1 16 0) rig) = some (.port0, cmd x.1 16 0))
    ∧ (∀ x ∈ bankCommands, commandCode (cmd x.1 4 0) = x.1 ∧ commandArgA (cmd x.1 4 0) = 4
        ∧ oldestPending (withCommand .port0 (cmd x.1 4 0) rig) = some (.port0, cmd x.1 4 0))
    ∧ executorCommands.length = 15
    ∧ executorBusy (rig.setCommand .port0 ⟨.executing 0x0C, 0x0C, .pending, none⟩) = true
    ∧ State.reset.device = .loading :=
  ⟨by decide, takes_of _ _ rfl (by decide) (by decide) (by decide), by decide, by decide, by decide, by decide,
    by decide, by decide⟩

theorem witness_ChannelCommands :
    (withCommand .port0 (cmd 0x01 0 0) rig).takes .port0 (cmd 0x01 0 0)
    ∧ (∀ code ∈ [1, 2, 3, 4, 5, 6, 7], commandCode (cmd code 0 2) = code ∧ commandArgA (cmd code 0 2) = 0
        ∧ commandArgB (cmd code 0 2) = 2 ∧ commandArgB (cmd code 0 3) = 3)
    ∧ (withChan { chFull with state := .off }).chan 0 = some { chFull with state := .off }
    ∧ (withChan chFull).chan 0 = some chFull ∧ chFull.state ≠ .off ∧ chFull.copy = .none ∧ chFull.bankUp = true
    ∧ ((withChan chFull).port chFull.config.writer).phase = .idle ∧ rig.chan 0 = none
    ∧ rotating (rig.chan 0) = false ∧ rotating ((withChan chFull).chan 0) = true
    ∧ ({ chCopying with copy := .queued } : Channel).copy = .queued
    ∧ (let s := (withChan chCopying).setPhase .port0 (.waitingCommit (wr 0x20000 9) 0)
       s.chan 0 = some chCopying ∧ (s.port chCopying.config.writer).phase = .waitingCommit (wr 0x20000 9) 0
        ∧ chCopying.copy = .copying 1)
    ∧ cfgL.depth = 3 ∧ ((live cfgL).slot 2).retired = false ∧ ((live cfgL).slot 2).state = .free
    ∧ ({ slotF with retired := true } : Slot).retired = true := by
  refine ⟨takes_of _ _ rfl (by decide) (by decide) (by decide), by decide, chan_withChan _, chan_withChan _,
    by decide⟩

theorem witness_RetireAndRestore :
    (retireAbandons chFilling 1 = true ∧ retireLoses chFilling 1 = false ∧ (chFilling.slot 1).state = .filling)
    ∧ (retireAbandons chCopying 0 = true ∧ retireLoses chCopying 0 = true ∧ (chCopying.slot 0).retired = false)
    ∧ (retireAbandons chFull 0 = false ∧ retireLoses chFull 0 = true)
    ∧ (retireAbandons chFull 1 = false ∧ retireLoses chFull 1 = false)
    ∧ (∀ t, chFilling.filling = some t → (chFilling.slot t).state = .filling)
    ∧ chFilling.config.depth ≤ commandArgB (cmd 0x06 0 3) := by decide

/-- A staging entry that CHANNEL_LOAD accepts: 16 words at 0x20000, QUEUE, depth 2, slots at 0x1000. -/
def staged : State :=
  { rig with
    staging :=
      ⟨((((Vector.replicate 16 0).set 0 0x42100).set 1 0x20000).set 2 16).set 3 0x1000, Vector.replicate 16 0⟩ }

theorem witness_LoadChannel :
    (withCommand .port0 (cmd 0x04 15 0) staged).takes .port0 (cmd 0x04 15 0)
    ∧ commandArgA (cmd 0x04 15 0) = (15 : ChanId).val ∧ rotating (staged.chan 15) = false
    ∧ ((stagingEntry .port0 staged).listed
        && (stagingEntry .port0 staged).config.accepted (staged.surroundings 15)) = true
    ∧ ((stagingEntry .port1 staged).listed
        && (stagingEntry .port1 staged).config.accepted (staged.surroundings 15)) = false :=
  ⟨takes_of _ _ rfl (by decide) (by decide) (by decide), by decide, by decide, by decide, by decide⟩

theorem witness_BankCommands :
    (withCommand .port0 (cmd 0x08 0 0) down).takes .port0 (cmd 0x08 0 0) ∧ (down.bank 0).service = .fenced
    ∧ (down.bank 0).config = some cfgA ∧ (rig.bank 3).service = .unused ∧ (rig.bank 0).service = .inService
    ∧ commandArgA (cmd 0x0A 3 0) = 3
    ∧ (bankWith cfgA .retryWait).service = .retryWait
    ∧ ({ bankWith cfgA .probing with probe := .inFlight } : Bank).probe = .inFlight
    ∧ (withCommand .port0 (cmd 0x0D 0 0) rig).takes .port0 (cmd 0x0D 0 0)
    ∧ (withCommand .port0 (cmd 0x0E 0 0) rig).takes .port0 (cmd 0x0E 0 0)
    ∧ (withCommand .port0 (cmd 0x0F 0 0) rig).takes .port0 (cmd 0x0F 0 0) := by
  refine ⟨takes_of _ _ rfl (by decide) (by decide) (by decide), by decide, by decide, by decide, by decide, by decide,
    by decide, by decide, takes_of _ _ rfl (by decide) (by decide) (by decide),
    takes_of _ _ rfl (by decide) (by decide) (by decide), takes_of _ _ rfl (by decide) (by decide) (by decide)⟩

/-- An image of one protected 64 KiB bank that is initialized at start, with no channel. -/
def imageWords : List Word :=
  [0x22405A3C, 1, 42, 0x804, 100, 0x640000, 0xF000, 10, 0, 0x14143015, 0, 0x211, 5] ++ List.replicate 28 0 ++ [0x61F51216]

def bytesOf (w : Word) : List Byte :=
  [w.setWidth 8, (w >>> 8).setWidth 8, (w >>> 16).setWidth 8, (w >>> 24).setWidth 8]

def image : List Byte := (imageWords.map bytesOf).flatten

/-- Two banks, the second of them to be initialized at start. -/
def image2 : Image :=
  { fallbackImage with
    bcbBase := 0x1F000, banks := ⟨#[some cfgA, some { cfgB with initAtStart := true }, none, none], rfl⟩ }

/-- Three channel entries, two for channel 0 and one for channel 1. -/
def twins : List Byte :=
  (([0x22405A3C, 1, 90, 0x30804] ++ List.replicate 69 0 ++ [1] ++ List.replicate 16 0 : List Word).map bytesOf).flatten

set_option maxRecDepth 100000 in
theorem test_good_image_is_accepted : ∃ img, judge image = .accepted img ∧ img.clockMHz = 100
    ∧ img.holdLimits = ⟨0, 100⟩ ∧ img.bcbBase = 0xF000 ∧ img.defaultAccess = ⟨.readWrite, .readWrite⟩
    ∧ img.banks.get 0 = some ⟨0, 0x10000, true, true, 3, 4, some 20, .limited, 50, 2, 5⟩ :=
  ⟨imageSettings image, by decide +kernel⟩

set_option maxRecDepth 100000 in
theorem test_wrong_crc_is_refused : judge (image.set 4 2) = .refused .format 0 ∧ judge (image.set 16 101)
    = .refused .crc 0 := by decide +kernel

set_option maxRecDepth 100000 in
theorem witness_ConfigurationChecks :
    lengthOk image = true ∧ crcOk image = true ∧ fieldsListed image = true
    ∧ bankListed 0x14143015 0x211 = true ∧ bankListed 0 3 = true ∧ regionListed 0xA1 = true
    ∧ banksOk image2 = true ∧ bcbOk image2 = true ∧ regionsOk image2 = true
    ∧ banksOk { image2 with banks := image2.banks.set 2 (some cfgA) } = false
    ∧ (∀ e ∈ imageEntries image, e.number ≠ (0 : ChanId).val)
    ∧ (∃ e, (imageEntries twins).filter (fun x => x.number == (1 : ChanId).val) = [e])
    ∧ (∃ e f rest, (imageEntries twins).filter (fun x => x.number == (0 : ChanId).val) = e :: f :: rest) :=
  ⟨by decide +kernel, by decide +kernel, by decide +kernel, by decide, by decide, by decide, by decide, by decide,
    by decide, by decide, by decide +kernel, ⟨imageEntry twins 2, by decide +kernel⟩,
    ⟨imageEntry twins 0, imageEntry twins 1, [], by decide +kernel⟩⟩

set_option maxRecDepth 100000 in
theorem witness_ImageJudged :
    State.reset.pinAsserted = false ∧ State.reset.device = .loading ∧ State.reset.loader.phase = .reading
    ∧ imageWord image 0 = 0x22405A3C ∧ imageWord image 1 = 1 ∧ lengthOk image = true
    ∧ crcOk (image.set 16 101) = false ∧ lengthOk (image.set 8 41) = false
    ∧ imageWord (image.set 0 0) 0 ≠ 0x22405A3C ∧ imageWord (image.set 4 2) 1 ≠ 1
    ∧ crcOk image = true ∧ fieldsListed image = true ∧ banksOk (imageSettings image) = true
    ∧ bcbOk (imageSettings image) = true ∧ regionsOk (imageSettings image) = true
    ∧ (∀ c, channelOk image (imageSettings image) c = true) := by decide +kernel

/-- LOADING with the loader in a phase. -/
def loadingAt (ph : LoaderPhase) : State := { State.reset with loader := { Loader.fresh ph with wordsRead := 42 } }

theorem witness_LoadingEnds :
    (loadingAt (.refused .crc 0)).device = .loading ∧ (loadingAt (.refused .crc 0)).loader.heldTimeouts = []
    ∧ (loadingAt (.refused .crc 0)).arbiter.busy = none
    ∧ (∀ p, ((loadingAt (.accepted fallbackImage)).port p).phase = .idle)
    ∧ (loadingAt (.accepted fallbackImage)).loader.phase = .accepted fallbackImage
    ∧ (∀ b cfg, fallbackImage.banks.get b = some cfg → cfg.initAtStart = false)
    ∧ (image2.banks.get 1 = some { cfgB with initAtStart := true }
        ∧ ∀ d x, d < 1 → image2.banks.get d = some x → x.initAtStart = false)
    ∧ (let s := (loadingAt .idle).setPhase .port1 (.held (rd 0))
       ∀ p, (s.port p).phase = .idle ∨ ∃ a, (s.port p).phase = .held a)
    ∧ ((rig.bank 0).service = .inService ∧ (rig.bank 0).config = some cfgA ∧ cfgA.retryMode ≠ .off
        ∧ (rig.bank 1).config = some cfgB ∧ cfgB.retryMode = .off)
    ∧ (((rig.setPhase .port1 (.held (rd 0))).port .port1).phase = .held (rd 0) ∧ rig.arbiter.lock = none) := by
  refine ⟨rfl, rfl, rfl, fun p => by cases p <;> rfl, rfl, ?_, ⟨rfl, ?_⟩, ?_, by decide, by decide⟩
  · intro b cfg h
    match b with
    | 0 => injection h with h; subst h; rfl
    | 1 => exact nomatch h
    | 2 => exact nomatch h
    | 3 => exact nomatch h
  · intro d x hd h
    match d with
    | 0 => injection h with h; subst h; rfl
  · intro s p
    cases p
    · exact .inl rfl
    · exact .inr ⟨_, rfl⟩

/-- A write of initialization at an address, with bank 1 to be initialized too. -/
def initAt (b : BankId) (addr : Nat) : State :=
  { rig.setBank 1 (bankWith { cfgB with initAtStart := true } .inService) with
    device := .loading
    arbiter := ⟨some ⟨.initWrite b addr, 20⟩, none, .port1, 0, 0⟩ }

theorem witness_InitializationWriteEnds :
    (let s : State := initAt 0 0xFFF8
     s.pinAsserted = false ∧ s.device = .loading ∧ s.arbiter.busy = some ⟨.initWrite 0 0xFFF8, 20⟩
      ∧ (s.bank 0).lastWord 0xFFF8 = false ∧ s.readyDue 0 [] 20 = true)
    ∧ (((initAt 0 0xFFFC).bank 0).lastWord 0xFFFC = true
        ∧ ((initAt 0 0xFFFC).bank 1).config = some { cfgB with initAtStart := true }
        ∧ ∀ e : BankId, 0 < e → e < 1 → False)
    ∧ (((initAt 1 0x1FFFC).bank 1).lastWord 0x1FFFC = true
        ∧ ∀ e : BankId, 1 < e → ((initAt 1 0x1FFFC).bank e).config = none)
    ∧ (loadingAt (.initTimedOut 0)).loader.phase = .initTimedOut 0
    ∧ memoryCanonical rig ∧ rig.isProtected 0 = true :=
  ⟨by decide, ⟨by decide, by decide, by decide⟩, by decide, rfl, ⟨by decide, by decide⟩, by decide⟩

-- (g) further clauses of the statements, at the boundaries of their ranges

theorem test_grant_after_a_withdrawal_takes_its_offset_out :
    dirtyAfter .arbiterGrant { rig.setEngine (.draining job) with mirror := ⟨[92], 0, .waiting 92⟩ } = some [] := by
  decide +kernel

theorem test_access_during_initialization_runs_under_10000 :
    (after (exec (.portAccess .port1 (rd 3)) ({ State.reset with
        ports := ⟨PortRecord.reset, { PortRecord.reset with holdLimit := 7 }⟩ }))).map
      (fun t => (t.port .port1).hold) = some (.running 10000) := by decide +kernel

theorem witness_StepsMark_MirrorGrant :
    (∃ t, exec .arbiterGrant { rig with mirror := ⟨[3], 0, .waiting 3⟩ } = .next t ∧ t.device ≠ .loading
      ∧ ∃ w, t.mirror.request = .inFlight w ∧ w.off = 3)
    ∧ (80 ≤ 80 + 2 * (3 : BankId).val + (1 : Fin 2).val ∧ 80 + 2 * (3 : BankId).val + (1 : Fin 2).val = 87)
    ∧ (67 < 68 ∨ 88 ≤ 67) ∧ (88 < 68 ∨ 88 ≤ 88) :=
  ⟨⟨_, rfl, by decide, _, rfl, rfl⟩, by decide, by decide, by decide⟩

theorem witness_MirrorWordLayouts_Unused :
    ∀ off ∈ [2, 3, 10, 13, 32, 63, 91, 95, 127, 512, 1023], off = 2 ∨ off = 3 ∨ (10 ≤ off ∧ off ≤ 13)
      ∨ (32 ≤ off ∧ off ≤ 63) ∨ off = 91 ∨ (95 ≤ off ∧ off ≤ 127) ∨ 512 ≤ off := by decide

theorem witness_ClassificationOrder_Ranges :
    rig.bankOf 0 = some 0 ∧ rig.bankOf 0xFFFF = some 0 ∧ rig.bankOf 0x10000 = some 1 ∧ rig.bankOf 0x20000 = none
    ∧ (withChan (live cfgL)).inSlotArea 0xFFF = false ∧ (withChan (live cfgL)).inSlotArea 0x1000 = true
    ∧ (withChan (live cfgL)).inSlotArea 0x10BF = true ∧ (withChan (live cfgL)).inSlotArea 0x10C0 = false
    ∧ (⟨true, 0xFFFF, 0xFFFF, ⟨.none, .none⟩⟩ : Region).covers 0xFFFF00 = true
    ∧ (⟨false, 0, 0xFFFF, ⟨.none, .none⟩⟩ : Region).covers 0 = false := by decide

/-- Port 0 holds an open lock at an address. -/
def lockedAt (addr : Nat) (s : State) : State := s.setLock (some ⟨.port0, addr⟩)

theorem witness_LockedPair_HalfRefused :
    (lockedAt 0x100 down).operating ∧ isWriteHalf (wr 0x100 9) 0x100 = true
    ∧ (decode .port0 (wr 0x100 9) (tookAt .port0 (wr 0x100 9) (lockedAt 0x100 down)) = .memory
        ∧ down.bankOf 0x100 = some 0 ∧ down.inService 0 = false ∧ down.windowOf 0x100 = none)
    ∧ (isWriteHalf (wr 0x20004 9) 0x20004 = true ∧ rig.inBcb 0x20004 = false
        ∧ (withChan (live cfgL)).windowOf 0x20004 ≠ none ∧ (withChan (Channel.loaded cfgL true)).windowOf 0x20004 ≠ none)
    ∧ (isWriteHalf (wr 0x1000 9) 0x1000 = true ∧ (withChan (live cfgL)).windowOf 0x1000 = none
        ∧ decode .port0 (wr 0x1000 9) (tookAt .port0 (wr 0x1000 9) (lockedAt 0x1000 (withChan (live cfgL))))
            = .refused .reserved)
    ∧ (isWriteHalf (wr 0x1F000 9) 0x1F000 = true ∧ rig.inBcb 0x1F000 = true
        ∧ decode .port0 (wr 0x1F000 9) (tookAt .port0 (wr 0x1F000 9) (lockedAt 0x1F000 rig)) = .refused .reserved)
    ∧ (isWriteHalf (wr 0x1F008 9) 0x1F008 = true ∧ rig.inBcb 0x1F008 = true
        ∧ decode .port0 (wr 0x1F008 9) (tookAt .port0 (wr 0x1F008 9) (lockedAt 0x1F008 rig)) = .bcbWrite 2) :=
  ⟨⟨rfl, by decide⟩, by decide, by decide, by decide, by decide, by decide, by decide⟩

/-- The locked read of the word at 0x104 holds the memory port. -/
def lockedReadOf (s : State) : State := granted .port0 (rd 0x104) (op1 false [0x104] [] (.lockedRead 0x104)) s

theorem witness_LockedPair_ReadEnds :
    ((lockedReadOf oneFlip).running .port0 (rd 0x104) (op1 false [0x104] [] (.lockedRead 0x104))
        ∧ (lockedReadOf oneFlip).classAt 0x104 = .corrected 0)
    ∧ ((lockedReadOf twoFlips).running .port0 (rd 0x104) (op1 false [0x104] [] (.lockedRead 0x104))
        ∧ (lockedReadOf twoFlips).classAt 0x104 = .uncorrectable)
    ∧ ((lockedReadOf poisonedAt).running .port0 (rd 0x104) (op1 false [0x104] [] (.lockedRead 0x104))
        ∧ (lockedReadOf poisonedAt).classAt 0x104 = .poisoned)
    ∧ rig.isProtected 0 = true ∧ rig.device ≠ .loading :=
  ⟨⟨running_granted _ _ _ _ rfl, by decide +kernel⟩, ⟨running_granted _ _ _ _ rfl, by decide +kernel⟩,
    ⟨running_granted _ _ _ _ rfl, by decide +kernel⟩, by decide, by decide⟩

theorem witness_ReadyTimeout_Rewrite :
    (let s := (granted .port0 { wr 0x106 5 with size := 2 } halfWrite oneFlip).setBusy (some ⟨.port .port0, 40⟩)
     s.readyDue 0 [20] 40 = true ∧ s.classAt 0x104 = .corrected 0)
    ∧ (let s := (lockedReadOf twoFlips).setBusy (some ⟨.port .port0, 40⟩)
       (s.port .port0).phase = .granted (rd 0x104) (op1 false [0x104] [] (.lockedRead 0x104))
        ∧ s.readyDue 0 [20] 40 = true ∧ s.classAt 0x104 = .uncorrectable)
    ∧ (let s := (granted .port0 (rd 0x104) (op1 false [0x104] [] .plain) oneFlip).setBusy (some ⟨.port .port0, 40⟩)
       (s.port .port0).phase = .granted (rd 0x104) (op1 false [0x104] [] .plain) ∧ s.readyDue 0 [20] 40 = true)
    ∧ (∀ tag ∈ [OpTag.bcb 2, .bcb 6, .writeHalf, .commitWord 0 1],
        let s := (granted .port0 (wr 0x100 1) (op1 true [0x100] [1] tag) rig).setBusy (some ⟨.port .port0, 20⟩)
        (s.port .port0).phase = .granted (wr 0x100 1) (op1 true [0x100] [1] tag) ∧ s.readyDue 0 [] 20 = true)
    ∧ (let s := (oneFlip.setEngine (.draining { job with flight := .reading, sourceBase := 0x100 })).setBusy
        (some ⟨.copy, 40⟩)
       s.readyDue 0 [20] 40 = true ∧ s.classAt ({ job with sourceBase := 0x100 } : CopyJob).sourceAddr = .corrected 0)
    ∧ (twoFlips.classAt ({ job with sourceBase := 0x100 } : CopyJob).sourceAddr = .uncorrectable) := by
  decide +kernel

theorem witness_Grants_Parts :
    (let s := rig.setEngine (.draining job)
     pick s = some .copy ∧ pick (settle s { s with copy := ⟨s.copy.queue, .idle, false⟩ }) = none)
    ∧ (let s : State := { rig.setEngine (.draining job) with mirror := ⟨[92], 0, .waiting 92⟩ }
       pick s = some .copy ∧ pick (settle s { s with copy := ⟨s.copy.queue, .idle, false⟩ }) = some .mirror
        ∧ s.bcbBank = some 1)
    ∧ (let j : CopyJob := { job with flight := .none }
       let s := copying chCopying j
       copyToDeal s = some j ∧ pick (settle s (copyAdvance j s)) = some .copy)
    ∧ (let j : CopyJob := { job with flight := .none, next := 16 }
       let s : State := { copying chCopying j with mirror := ⟨[92], 0, .waiting 92⟩ }
       copyToDeal s = some j ∧ pick (settle s (copyAdvance j s)) = some .mirror) := by decide +kernel

theorem witness_Grants_LeavesSet : dirtySetOrdered { rig with mirror := ⟨[3], 0, .waiting 3⟩ } := by
  unfold dirtySetOrdered; simp [ascending]

theorem witness_CopyOperationEnds_BadWords :
    (let j : CopyJob := { job with flight := .reading, sourceBase := 0x100 }
     oneFlip.classAt j.sourceAddr = .corrected 0 ∧ twoFlips.classAt j.sourceAddr = .uncorrectable
      ∧ (copyBusy j oneFlip).copy.state = .active j ∧ (copyBusy j twoFlips).arbiter.busy = some ⟨.copy, 0⟩
      ∧ oneFlip.inService j.bank = true ∧ down.inService j.bank = false)
    ∧ (let j : CopyJob := { job with flight := .writing, word := some ⟨3, true⟩ }
       ((rig.setEngine (.draining j)).setBusy (some ⟨.copy, 3⟩)).copy.state = .draining j) := by decide +kernel

theorem witness_CopyReportsTaken_Elsewhere :
    (let s : State := { withChan { chCopying with copy := .queued } with copy := ⟨[0], .ending job .completion, false⟩ }
     s.copy.state = .ending job .completion ∧ s.chan job.channel = some { chCopying with copy := .queued })
    ∧ ({ rig with copy := ⟨[], .ending job .failure, false⟩ } : State).chan job.channel = none := by decide

/-- A mirror write of a flag word in flight, carrying two flags. -/
def carrying (off : Nat) : State := { withChan staleL with mirror := ⟨[], off, .inFlight ⟨off, 1, 0x1F038, 7, [1, 6]⟩⟩ }

theorem witness_MirrorWriter_NoFlags :
    (let w : MirrorWrite := ⟨0, 1, 0x1F000, 1, []⟩
     w.carried = [] ∧ bcbDown.inService w.bank = false)
    ∧ (⟨14, 1, 0x1F038, 1, [0]⟩ : MirrorWrite).carried ≠ [] := by decide

theorem witness_AckHandovers_InFlight :
    (∀ off ∈ [14, 15, 16, 31], (carrying off).mirror.request = .inFlight ⟨off, 1, 0x1F038, 7, [1, 6]⟩)
    ∧ 14 = 14 + portNat .port0 ∧ 15 ≠ 14 + portNat .port0 ∧ 31 = 16 + (15 : ChanId).val
    ∧ rig.mirror.request = .none ∧ staleL.state = .stale
    ∧ (0x4200 : Word).toNat % 256 = (0 : ChanId).val ∧ (0x4200 : Word).toNat % 256 ≠ (15 : ChanId).val
    ∧ (carrying 16).chan 0 = some staleL := by decide

theorem witness_Scrubber_Reads :
    (let s : State := { oneFlip with arbiter := ⟨some ⟨.scrub 0 0x104, 3⟩, none, .port1, 0, 0⟩ }
     s.isProtected 0 = true ∧ s.classAt 0x104 = .corrected 0)
    ∧ twoFlips.classAt 0x104 = .uncorrectable ∧ poisonedAt.classAt 0x104 = .poisoned ∧ rig.isProtected 1 = false
    ∧ (let s : State := { rig.setBank 1 (bankWith { cfgB with checkCode := true } .inService) with
        scrub := ⟨.running .reading, some 0xFFFC, 0, .stopped, 0, none⟩ }
       s.scrub.position = some 0xFFFC ∧ (s.bank 0).lastWord 0xFFFC = true ∧ s.eligibleFrom 0x10000 = some 0x10000
        ∧ s.scrub.interval = 0 ∧ stopWaiting s = none)
    ∧ (let s : State := { rig with scrub := ⟨.running .reading, some 0xFFFC, 4, .stopped, 0, none⟩ }
       s.eligibleFrom (0xFFFC + 4) = none ∧ s.eligibleFrom 0 = some 0)
    ∧ (let s : State := { down with scrub := ⟨.running .reading, none, 4, .stopped, 0, none⟩ }
       s.scrub.position = none ∧ s.scrub.state = .running .reading ∧ s.eligibleFrom 0 = none ∧ stopWaiting s = none)
    ∧ (let s : State := { down with scrub := ⟨.running .reading, some 0xFFFC, 4, .stopped, 0, none⟩ }
       (s.bank 0).lastWord 0xFFFC = true ∧ s.eligibleFrom (0xFFFC + 4) = none ∧ s.eligibleFrom 0 = none)
    ∧ rig.eligible 0 = true ∧ rig.eligible 1 = false ∧ down.eligible 0 = false := by decide +kernel

theorem witness_FaultsTakeBankOut_Withdrawals :
    (∀ tag ∈ [OpTag.lockedRead 0x100, .bcb 2, .bcb 6, .commitWord 0 1],
      ((rig.setPhase .port0 (.atArbiter (wr 0x100 1) (op1 true [0x100] [1] tag))).port .port0).phase
        = .atArbiter (wr 0x100 1) (op1 true [0x100] [1] tag))
    ∧ (rig.command .port0).state = .idle ∧ ((withCommand .port0 0x0E rig).command .port0).state ≠ .idle
    ∧ (let s := down.setPhase .port1 (.keptBack (rd 0x20000) (op1 false [0x1040] [] .plain) 0 1)
       s.inService 0 = false
        ∧ (s.port (otherPort .port0)).phase = .keptBack (rd 0x20000) (op1 false [0x1040] [] .plain) 0 1)
    ∧ (copying chCopying job).copy.state = .active job ∧ job.flight = .readWaiting ∧ job.bank = 0
    ∧ (rig.setEngine (.draining { job with flight := .writeWaiting })).copy.state
        = .draining { job with flight := .writeWaiting }
    ∧ rig.copy.state.job = none
    ∧ ({ rig with mirror := ⟨[], 0, .waiting 1023⟩ } : State).mirror.request = .waiting 1023 ∧ rig.bcbBank = some 1
    ∧ rig.mirror.request = .none := by decide

theorem witness_BankCommands_Probe :
    ∀ pr ∈ [Probe.waiting, .inFlight, .timedOut],
      (rig.setBank 0 { bankWith cfgA .probing with probe := pr }).bank 0 = { bankWith cfgA .probing with probe := pr }
        ∧ commandArgA (cmd 0x0A 0 0) = (0 : BankId).val ∧ commandCode (cmd 0x0A 0 0) = 0x0A := by decide

set_option maxRecDepth 100000 in
theorem witness_ImageJudged_Words :
    wordsClocked (image.set 0 0) = 1 ∧ wordsClocked (image.set 4 2) = 2 ∧ wordsClocked (image.set 8 41) = 4
    ∧ wordsClocked image = 42 ∧ imageWord [0x5A, 0x3C] 0 = 0xFFFF3C5A
    ∧ bankEntry 0x14143015 0 0x521 7 = some ⟨0, 0x10000, true, true, 3, 4, some 20, .limited, 200, 5, 7⟩
    ∧ bankEntry 0 0 0 0 = none
    ∧ regionEntry 0x91 0x20001 = ⟨true, 1, 2, ⟨.read, .readWrite⟩⟩
    ∧ (imageEntries twins).length = 3 := by decide +kernel

theorem witness_LoadingEnds_Issuer :
    (let s := (loadingAt (.accepted fallbackImage)).setCommand .port1 ⟨.executing 0x0F, 0x0F, .pending, none⟩
     (s.command .port1).state = .executing 0x0F ∧ ∀ v, (s.command (otherPort .port1)).state ≠ .executing v)
    ∧ (∀ p w, ((loadingAt (.accepted fallbackImage)).command p).state ≠ .executing w)
    ∧ GlobalFlag.configFallback.bit ≠ GlobalFlag.cmdDone.bit := by
  refine ⟨⟨rfl, fun _ h => nomatch h⟩, fun p w => ?_, by decide⟩
  cases p <;> exact fun h => nomatch h

/-- A burst read of the three words from 0x100. -/
def threeWords : PortOp := op1 false [0x100, 0x104, 0x108] [] .plain

/-- Words whose check lanes hold flipped bits. -/
def flips (l : List (Nat × BitVec 7)) : State := { rig with lanes := l }

theorem witness_PortOperationEnds_Bursts :
    wordsApart threeWords.addrs ∧ wordsApart ([0x100] ++ [0x104])
    ∧ (∀ x ∈ threeWords.addrs, readsWell (flips [(0x100, 1), (0x108, 1)]) x)
    ∧ (flips [(0x100, 1), (0x104, 3)]).classAt 0x100 = .corrected 0
    ∧ (flips [(0x100, 1), (0x104, 3)]).classAt 0x104 = .uncorrectable
    ∧ (flips [(0x100, 1), (0x104, 0x3F)]).classAt 0x104 = .poisoned
    ∧ (granted .port1 (burst (rd 0x100) 3) threeWords (flips [(0x100, 1)])).running .port1 (burst (rd 0x100) 3)
        threeWords := by
  refine ⟨by unfold wordsApart; decide, by unfold wordsApart; decide, ?_, by decide +kernel, by decide +kernel,
    by decide +kernel, running_granted _ _ _ _ rfl⟩
  intro x hx
  have hx : x = 0x100 ∨ x = 0x104 ∨ x = 0x108 := by simpa [threeWords, op1] using hx
  rcases hx with rfl | rfl | rfl
  · exact .inr ⟨0, by decide +kernel⟩
  · exact .inl (by decide +kernel)
  · exact .inr ⟨0, by decide +kernel⟩

/-- A commit's word 0 write of slot 0 holds the memory port, and a tag read of that slot in a bank is kept back. -/
def commitEnding (b : BankId) : State :=
  (granted .port0 (wr 0x20000 5) (op1 true [0x1000] [5] (.commitWord 0 0)) rig).setPhase .port1
    (.keptBack (rd 0x20000) ⟨b, [0x1000], false, 4, 0, [], .plain⟩ 0 0)

theorem witness_PortOperationEnds_Commit :
    (commitEnding 0).running .port0 (wr 0x20000 5) (op1 true [0x1000] [5] (.commitWord 0 0))
    ∧ ((commitEnding 0).port (otherPort .port0)).phase
        = .keptBack (rd 0x20000) ⟨0, [0x1000], false, 4, 0, [], .plain⟩ 0 0
    ∧ (commitEnding 0).inService 0 = true ∧ (commitEnding 2).inService 2 = false
    ∧ (∀ a' o', (rig.port (otherPort .port0)).phase ≠ .keptBack a' o' 0 0) :=
  ⟨⟨rfl, ⟨_, rfl⟩, by decide⟩, by decide, by decide, by decide, fun _ _ h => nomatch h⟩

theorem test_commit_end_hands_on_the_kept_back_read :
    (after (exec (.portOperationEnd .port0) (commitEnding 0))).map (fun t => (t.port .port1).phase)
      = some (.atArbiter (rd 0x20000) ⟨0, [0x1000], false, 4, 0, [], .plain⟩) := by decide +kernel

theorem witness_AnswerEffects_Tags :
    down.bankOf ([0x1000].headD 0) = some 0 ∧ down.inService 0 = false ∧ OpTag.bcb 3 = .bcb (2 + portNat .port1)
    ∧ OpTag.bcb 6 = .bcb 6 ∧ 6 ≠ 2 + portNat .port1 := by decide

theorem witness_BcbAccessChecked_BankDown :
    (∀ w ∈ [wr 0x1F008 0x0E, wr 0x1F018 1],
      formOk w = true ∧ bcbDown.inBcb w.addr.toNat = true ∧ isSingleWord w = true
        ∧ bcbWritable .port0 ((w.addr.toNat - bcbDown.bcbBase) / 4) = true
        ∧ bcbDown.bankOf (firstWord w) = some 1 ∧ bcbDown.inService 1 = false)
    ∧ ((0x1F008 - bcbDown.bcbBase) / 4 = 2 + portNat .port0 ∧ (0x1F018 - bcbDown.bcbBase) / 4 ≠ 2 + portNat .port0)
    ∧ bcbDown.free .port0 :=
  ⟨by decide, by decide, free_of rfl (by decide) rfl rfl⟩

theorem witness_ReadyTimeout_RewriteElsewhere :
    (let s := (granted .port1 (burst (rd 0x100) 3) threeWords (flips [(0x104, 3)])).setBusy (some ⟨.port .port1, 60⟩)
     s.readyDue 0 [20, 20] 60 = true ∧ s.classAt 0x100 = .clean ∧ s.classAt 0x104 = .uncorrectable)
    ∧ (let s : State := { oneFlip with arbiter := ⟨some ⟨.scrub 0 0x104, 40⟩, none, .port1, 0, 0⟩ }
       s.readyDue 0 [20] 40 = true ∧ s.isProtected 0 = true ∧ s.classAt 0x104 = .corrected 0)
    ∧ (let s : State := ({ twoFlips with arbiter := ⟨some ⟨.probe 0 0x104, 40⟩, none, .port1, 0, 0⟩ } : State).setBank 0
        { bankWith cfgA .probing with probe := .inFlight }
       s.readyDue 0 [20] 40 = true ∧ (s.bank 0).probe = .inFlight ∧ s.classAt 0x104 = .uncorrectable)
    ∧ ({ bankWith cfgA .fenced with probe := .discarded } : Bank).probe = .discarded := by decide +kernel

theorem witness_CommandHandover_Loading :
    State.reset.device = .loading ∧ (State.reset.command .port0).state = .idle
    ∧ ((State.reset.setCommand .port0 ⟨.executing 0x0F, 0x0F, .pending, none⟩).command .port0).state ≠ .idle := by
  decide

theorem test_command_of_the_reload_issuer_is_refused_in_loading :
    ((acceptCommand .port0 0x10E (State.reset.setCommand .port0 ⟨.executing 0x0F, 0x0F, .pending, none⟩)).command
      .port0).refused = some 0x0E := by decide

theorem witness_ReloadBeginsLoading_Phases :
    (let s := ((withChan chNewest).setPhase .port0 (.atChannel (rd 0x20004) 0 1)).setPhase .port1
        (.keptBack (rd 0x20000) (op1 false [0x1000] [] .plain) 0 0)
     (s.port .port0).phase = .atChannel (rd 0x20004) 0 1
      ∧ (s.port .port1).phase = .keptBack (rd 0x20000) (op1 false [0x1000] [] .plain) 0 0)
    ∧ (withCommand .port0 (cmd 0x0F 0 0) rig).takes .port0 (cmd 0x0F 0 0) :=
  ⟨by decide, takes_of _ _ rfl (by decide) (by decide) (by decide)⟩

end Sys2Proof.Tests
end

section
/-! SUPPORT. A command taken by the idle executor (R166): which command the executor takes, what its step answers, and
which channel its owner is given. -/

namespace Sys2Proof.Machine

open Sys2Proof

/-- The idle executor takes the oldest PENDING command, when the step is of its code. -/
theorem takeCommand_of_takes {s : State} {p : Port} {w : Word} {codes : Nat → Bool} (ht : s.takes p w)
    (hc : codes (commandCode w) = true) : takeCommand codes s = some (p, w) := by
  obtain ⟨⟨_, hrun⟩, hidle, hold⟩ := ht
  simp [takeCommand, hrun, hidle, hold, hc]

/-- A command taken ends with its owner's outcome, in the state the owner leaves. -/
theorem event_runCommand_of_takes {s t : State} {p : Port} {w : Word} {codes : Nat → Bool} {owner : Owner}
    {o : CommandOutcome} (ht : s.takes p w) (hc : codes (commandCode w) = true)
    (ho : owner p w (startCommand p w s) = (o, t)) :
    event s (runCommand codes owner) = settle s (endCommand p o t) := by
  have ⟨⟨hpin, _⟩, _⟩ := ht
  exact event_of_some hpin (by simp only [runCommand, takeCommand_of_takes ht hc, ho])

/-- Argument a names a channel: its owner is consulted for that channel. -/
theorem withChannel_of_argA {f : Port → Word → ChanId → State → CommandOutcome × State} {p : Port} {w : Word}
    {c : ChanId} (s : State) (ha : commandArgA w = c.val) : withChannel f p w s = f p w c s := by
  simp [withChannel, ha]

@[simp] theorem chan_startCommand (p : Port) (w : Word) (s : State) (c : ChanId) :
    (startCommand p w s).chan c = s.chan c := rfl

end Sys2Proof.Machine
end

section
/-! PROOF. CHANNEL_UNLOAD (R40): its outcome by the state of the entry, the channel's flags after their clearing, and
the decoder without the entry. -/

namespace Sys2Proof.Machine

open Sys2Proof

/-! ## The command -/

theorem exec_channelUnload_eq (s : State) : exec .channelUnload s = execChannelUnload s := rfl

/-- CHANNEL_UNLOAD of channel `c`, taken, ends with what its owner makes of the entry. -/
theorem exec_channelUnload_of_takes {s t : State} {p : Port} {w : Word} {c : ChanId} {o : CommandOutcome}
    (ht : s.takes p w) (hcode : commandCode w = 0x05) (ha : commandArgA w = c.val)
    (ho : channelUnload p w c (startCommand p w s) = (o, t)) :
    exec .channelUnload s = .next (settle s (endCommand p o t)) := by
  rw [exec_channelUnload_eq, execChannelUnload,
    event_runCommand_of_takes ht (by rw [hcode]; rfl) ((withChannel_of_argA _ ha).trans ho)]

/-- The owner on an OFF entry. -/
theorem channelUnload_of_off {s : State} {c : ChanId} {ch : Channel} (p : Port) (w : Word)
    (hch : s.chan c = some ch) (hoff : ch.state = .off) :
    channelUnload p w c s = (.done, markAll (recordOffsets c) (clearChannelFlags c (s.setChan c none))) := by
  simp only [channelUnload, hch, hoff, if_true]

/-- The owner on any other entry: UNCONFIGURED, LIVE or STALE. -/
theorem channelUnload_of_not_off {s : State} {c : ChanId} (p : Port) (w : Word)
    (h : s.chan c = none ∨ ∃ ch, s.chan c = some ch ∧ ch.state ≠ .off) :
    channelUnload p w c s = (.wrongState, s) := by
  rcases h with hnone | ⟨ch, hch, hon⟩
  · simp only [channelUnload, hnone]
  · simp only [channelUnload, hch, if_neg hon]

/-! ## The flags -/

/-- A flag that is CLEAR, or among those cleared, is CLEAR after several are cleared. -/
theorem channelStage_foldl_clearChannelFlag (c : ChanId) (n : Fin 7) :
    ∀ (bits : List (Fin 7)) (s : State), n ∈ bits ∨ s.channelStage c n = .clear →
      (bits.foldl (fun t k => clearChannelFlag c k t) s).channelStage c n = .clear := by
  intro bits
  induction bits with
  | nil => exact fun s h => h.resolve_left List.not_mem_nil
  | cons k ks ih =>
    intro s h
    refine ih _ ?_
    rw [channelStage_clearChannelFlag]
    by_cases hk : n = k
    · exact .inr (if_pos ⟨rfl, hk⟩)
    · rw [if_neg (fun e => hk e.2)]
      exact h.imp_left (fun hm => (List.mem_cons.1 hm).resolve_left hk)

/-- Every bit is one of those cleared (R55). -/
theorem channelStage_clearChannelFlags (c : ChanId) (n : Fin 7) (s : State) :
    (clearChannelFlags c s).channelStage c n = .clear :=
  have hn : n ∈ channelBits := by revert n; decide
  channelStage_foldl_clearChannelFlag c n channelBits s (.inl hn)

/-! ## The decoder -/

/-- The decoder finds a window only at a configured entry (R18). -/
theorem windowOf_ne_of_unconfigured {s : State} {c : ChanId} (addr : Nat) (h : s.chan c = none) :
    s.windowOf addr ≠ some c := by
  intro hw
  have hfound := List.find?_some hw
  simp [h] at hfound

/-- An address in no configured entry's slot area is in none (R20). -/
theorem inSlotArea_eq_false {s : State} {addr : Nat}
    (h : ∀ d ch, s.chan d = some ch → ch.config.inSlotArea addr = false) : s.inSlotArea addr = false := by
  refine List.any_eq_false.2 (fun d _ => ?_)
  cases hd : s.chan d with
  | none => simp
  | some ch => simp [h d ch hd]

/-- An entry removed adds no slot area: what the other entries leave free is free. -/
theorem inSlotArea_setChan_none {s : State} {c : ChanId} {addr : Nat}
    (h : ∀ d ch, d ≠ c → s.chan d = some ch → ch.config.inSlotArea addr = false) :
    (s.setChan c none).inSlotArea addr = false := by
  refine inSlotArea_eq_false (fun d ch hd => ?_)
  by_cases hdc : d = c
  · subst hdc
    rw [chan_setChan_same] at hd
    cases hd
  · rw [chan_setChan_ne s none hdc] at hd
    exact h d ch hdc hd

end Sys2Proof.Machine

namespace Sys2Proof.Proofs

open Sys2Proof Sys2Proof.Machine

/-- Settles O51: by the state of the entry the command names, with the mark of its record, its flags and the decoder
each by their own lemma. -/
theorem unloadChannel : Obligations.UnloadChannel := by
  refine ⟨fun s p w c ht hcode ha => ⟨fun ch hch hoff => ?_, fun h => ?_⟩, fun s offs k => mem_dirty_markAll offs s k,
    fun s c n => channelStage_clearChannelFlags c n s,
    fun s c addr => windowOf_ne_of_unconfigured addr (chan_setChan_same s c none),
    fun _ _ _ => inSlotArea_setChan_none⟩
  · exact exec_channelUnload_of_takes ht hcode ha
      (channelUnload_of_off p w ((chan_startCommand p w s c).trans hch) hoff)
  · exact exec_channelUnload_of_takes ht hcode ha
      (channelUnload_of_not_off p w (by rwa [chan_startCommand]))

end Sys2Proof.Proofs
end

section
/-! SUPPORT. A window access handed over to its channel (R57): the kind it has by role, direction and tag word, and its
step once it has passed the channel's checks. -/

namespace Sys2Proof.Machine

open Sys2Proof

/-! ## The kind of an access -/

/-- The writer's write of data words. -/
theorem windowKind_writerDataWrite {cfg : ChannelConfig} {p : Port} {a : Access} {off : Nat} (hp : p = cfg.writer)
    (hw : a.write = true) (hoff : off ≠ 0) : windowKind cfg p a off = .writerDataWrite := by
  simp only [windowKind, hp, hw, hoff, if_true, if_false]

/-- The writer's write of a tag other than zero (R67). -/
theorem windowKind_commit {cfg : ChannelConfig} {p : Port} {a : Access} (hp : p = cfg.writer) (hw : a.write = true)
    (htag : beatData a 0 ≠ 0) : windowKind cfg p a 0 = .commit := by
  simp only [windowKind, hp, hw, htag, if_true, if_false]

/-- The writer's write of the tag zero (R67). -/
theorem windowKind_discard {cfg : ChannelConfig} {p : Port} {a : Access} (hp : p = cfg.writer) (hw : a.write = true)
    (htag : beatData a 0 = 0) : windowKind cfg p a 0 = .discard := by
  simp only [windowKind, hp, hw, htag, if_true]

/-- The reader's write of the tag word, whatever its value (R78). -/
theorem windowKind_release {cfg : ChannelConfig} {p : Port} {a : Access} (hp : p ≠ cfg.writer) (hw : a.write = true) :
    windowKind cfg p a 0 = .release := by
  simp only [windowKind, hp, hw, if_true, if_false]

/-! ## The step -/

/-- A handed access of its kind, in form at the tag word and in its role, is taken. -/
theorem takeWindow_of_handed {s : State} {p : Port} {a : Access} {c : ChanId} {off : Nat} {ch : Channel}
    {kind : WindowKind} (f : WindowTake) (h : s.handed p a c off ch) (hkind : windowKind ch.config p a off = kind)
    (hform : off = 0 → isSingleWord a = true) (hrole : kind ≠ .readerDataWrite) :
    takeWindow kind p f s = some (f p a c ch off s) := by
  obtain ⟨_, hphase, hch, hon, hlen⟩ := h
  have hformed : (decide (off = 0) && !isSingleWord a) = false := by simpa using hform
  simp only [takeWindow, hphase, hch, hkind, if_true, if_neg hon, if_neg (Nat.not_lt.2 hlen), hformed,
    Bool.false_eq_true, if_neg hrole, if_false]

/-- Its step settles what the request makes of the state. -/
theorem event_takeWindow_of_handed {s : State} {p : Port} {a : Access} {c : ChanId} {off : Nat} {ch : Channel}
    {kind : WindowKind} (f : WindowTake) (h : s.handed p a c off ch) (hkind : windowKind ch.config p a off = kind)
    (hform : off = 0 → isSingleWord a = true) (hrole : kind ≠ .readerDataWrite) :
    event s (takeWindow kind p f) = settle s (f p a c ch off s) :=
  have ⟨hpin, _⟩ := h
  event_of_some hpin (takeWindow_of_handed f h hkind hform hrole)

/-- WRITER_DATA_WRITE of a handed access. -/
theorem exec_writerDataWrite_of_handed {s : State} {p : Port} {a : Access} {c : ChanId} {off : Nat} {ch : Channel}
    (h : s.handed p a c off ch) (hp : p = ch.config.writer) (hw : a.write = true) (hoff : off ≠ 0) :
    exec (.writerDataWrite p) s = .next (settle s (takeDataWrite p a c ch off s)) :=
  congrArg Host.Outcome.next (event_takeWindow_of_handed takeDataWrite h (windowKind_writerDataWrite hp hw hoff)
    (fun h0 => absurd h0 hoff) (by decide))

/-- COMMIT of a handed access. -/
theorem exec_commit_of_handed {s : State} {p : Port} {a : Access} {c : ChanId} {ch : Channel}
    (h : s.handed p a c 0 ch) (hp : p = ch.config.writer) (hw : a.write = true) (hform : isSingleWord a = true)
    (htag : beatData a 0 ≠ 0) : exec (.commit p) s = .next (settle s (takeCommit p a c ch 0 s)) :=
  congrArg Host.Outcome.next (event_takeWindow_of_handed takeCommit h (windowKind_commit hp hw htag) (fun _ => hform)
    (by decide))

/-- DISCARD of a handed access. -/
theorem exec_discard_of_handed {s : State} {p : Port} {a : Access} {c : ChanId} {ch : Channel}
    (h : s.handed p a c 0 ch) (hp : p = ch.config.writer) (hw : a.write = true) (hform : isSingleWord a = true)
    (htag : beatData a 0 = 0) : exec (.discard p) s = .next (settle s (takeDiscard p a c ch 0 s)) :=
  congrArg Host.Outcome.next (event_takeWindow_of_handed takeDiscard h (windowKind_discard hp hw htag) (fun _ => hform)
    (by decide))

/-- RELEASE of a handed access. -/
theorem exec_release_of_handed {s : State} {p : Port} {a : Access} {c : ChanId} {ch : Channel}
    (h : s.handed p a c 0 ch) (hp : p ≠ ch.config.writer) (hw : a.write = true) (hform : isSingleWord a = true) :
    exec (.release p) s = .next (settle s (takeRelease p a c ch 0 s)) :=
  congrArg Host.Outcome.next (event_takeWindow_of_handed takeRelease h (windowKind_release hp hw) (fun _ => hform)
    (by decide))

end Sys2Proof.Machine
end

section
/-! PROOF. The refused open (R63), the discard (R68) and the LATEST release (R78, R49): what each makes of the channel,
by its filling field or by what the reader holds. -/

namespace Sys2Proof.Machine

open Sys2Proof

/-! ## The writer -/

/-- A write that needs a filling slot and gets none is refused, whatever it would have done with one (R63). -/
theorem withFilling_refused {s : State} {c : ChanId} {ch : Channel} (p : Port) (a : Access)
    (k : Channel → Fin 8 → State → State) (hfill : ch.filling = none) (hopen : openSlot c ch s = none) :
    withFilling p a c ch s k = refuseOpen p a c ch s := by
  simp only [withFilling, hfill, hopen]

/-- A channel with a filling slot, after the filling has ended without a frame. -/
theorem Channel.fillingEnded_of_filling {ch : Channel} {i : Fin 8} (hfill : ch.filling = some i) :
    ch.fillingEnded =
      { ch with
        slots := (ch.slots.set i (ch.slot i).freed).map (fun x => { x with copySource := false })
        copy := .none, filling := none, waiting := none } := by
  simp only [Channel.fillingEnded, hfill, Channel.copyEnded, Channel.setSlot]

theorem takeDiscard_of_filling {ch : Channel} {i : Fin 8} (p : Port) (a : Access) (c : ChanId) (off : Nat) (s : State)
    (hfill : ch.filling = some i) :
    takeDiscard p a c ch off s = answerOkay p a (abortAtEngine c ch.copy (s.setChan c (some ch.fillingEnded))) := by
  simp only [takeDiscard, hfill]

theorem takeDiscard_of_not_filling {ch : Channel} (p : Port) (a : Access) (c : ChanId) (off : Nat) (s : State)
    (hfill : ch.filling = none) : takeDiscard p a c ch off s = answerOkay p a s := by
  simp only [takeDiscard, hfill]

/-! ## The reader's LATEST release -/

theorem takeRelease_of_latest {ch : Channel} (p : Port) (a : Access) (c : ChanId) (off : Nat) (s : State)
    (hmode : ch.config.mode = .latest) :
    takeRelease p a c ch off s = answerOkay p a (s.setChan c (some ch.releaseLatest)) := by
  simp only [takeRelease, hmode]

/-- A held frame that is no longer the newest is gone: its slot becomes FREE (R78). -/
theorem Channel.releaseLatest_of_superseded {ch : Channel} {i : Fin 8} (hheld : ch.held = .slot i)
    (hvalid : ch.valid i = true) (hnewest : ch.newest ≠ some i) :
    ch.releaseLatest = { ch with slots := ch.slots.set i (ch.slot i).freed, held := .none } := by
  simp only [Channel.releaseLatest, hheld, hvalid, Bool.not_true, Bool.false_eq_true, if_false, if_neg hnewest,
    Channel.setSlot]

/-- A held frame that is still the newest stays COMMITTED (R78). -/
theorem Channel.releaseLatest_of_newest {ch : Channel} {i : Fin 8} (hheld : ch.held = .slot i)
    (hvalid : ch.valid i = true) (hnewest : ch.newest = some i) : ch.releaseLatest = { ch with held := .none } := by
  simp only [Channel.releaseLatest, hheld, hvalid, Bool.not_true, Bool.false_eq_true, if_false, if_pos hnewest]

/-- A held slot that is invalid at its release becomes FREE, the newest or not (R49). -/
theorem Channel.releaseLatest_of_invalid {ch : Channel} {i : Fin 8} (hheld : ch.held = .slot i)
    (hvalid : ch.valid i = false) :
    ch.releaseLatest =
      { ch with
        slots := ch.slots.set i (ch.slot i).freed
        held := .none
        newest := if ch.newest = some i then none else ch.newest } := by
  simp only [Channel.releaseLatest, hheld, hvalid, Bool.not_false, if_true, Channel.setSlot]

theorem Channel.releaseLatest_of_substitute {ch : Channel} (hheld : ch.held = .substitute) :
    ch.releaseLatest = { ch with held := .none } := by
  simp only [Channel.releaseLatest, hheld]

theorem Channel.releaseLatest_of_none {ch : Channel} (hheld : ch.held = .none) : ch.releaseLatest = ch := by
  simp only [Channel.releaseLatest, hheld]

/-- A LATEST tag read releases first (R74). -/
theorem Channel.tagSnapshot_of_latest {ch : Channel} (hmode : ch.config.mode = .latest) :
    ch.tagSnapshot = ch.releaseLatest.snapshotLatest := by
  simp only [Channel.tagSnapshot, hmode]

end Sys2Proof.Machine

namespace Sys2Proof.Proofs

open Sys2Proof Sys2Proof.Machine

/-- Settles O27: a data write and a commit ask for the filling slot alike, and where none is found both end in the one
refusal. -/
theorem refusedOpenAnsweredBlocked : Obligations.RefusedOpenAnsweredBlocked := by
  intro s p a c off ch h hp hw hfill hopen
  refine ⟨fun hoff => ?_, fun hoff hform htag => ?_⟩
  · rw [exec_writerDataWrite_of_handed h hp hw hoff, takeDataWrite, withFilling_refused p a _ hfill hopen, refuseOpen]
  · subst hoff
    rw [exec_commit_of_handed h hp hw hform htag, takeCommit, withFilling_refused p a _ hfill hopen, refuseOpen]

/-- Settles O30: by the filling field, with the channel after its filling by `Channel.fillingEnded_of_filling`. -/
theorem discardEndsFilling : Obligations.DiscardEndsFilling := by
  intro s p a c ch h hp hw hform htag
  rw [exec_discard_of_handed h hp hw hform htag]
  refine ⟨fun i hfill => ?_, fun hfill => ?_⟩
  · rw [takeDiscard_of_filling p a c 0 s hfill, Channel.fillingEnded_of_filling hfill, Slot.freed, answerOkay]
  · rw [takeDiscard_of_not_filling p a c 0 s hfill, answerOkay]

/-- Settles O33: the release's answer, and the channel after it by what the reader holds. -/
theorem latestReleaseLetsGo : Obligations.LatestReleaseLetsGo := by
  refine ⟨fun s p a c ch h hp hw hform hmode => ?_, fun ch =>
    ⟨fun _ => Channel.releaseLatest_of_superseded, fun _ => Channel.releaseLatest_of_newest,
      fun _ => Channel.releaseLatest_of_invalid, Channel.releaseLatest_of_substitute, Channel.releaseLatest_of_none,
      Channel.tagSnapshot_of_latest⟩⟩
  rw [exec_release_of_handed h hp hw hform, takeRelease_of_latest p a c 0 s hmode, answerOkay]

end Sys2Proof.Proofs
end

section
/-! PROOF. TIME_ZERO (R104): the command as the executor runs it, and the time base after it. -/

namespace Sys2Proof.Machine

open Sys2Proof

theorem exec_timeZero_eq (s : State) : exec .timeZero s = execTimeZero s := rfl

/-- The owner of TIME_ZERO refuses nothing: it has no argument to check and no state to require. -/
theorem timeZero_eq (p : Port) (w : Word) (s : State) : timeZero p w s = (.done, zeroTime s) := rfl

/-- TIME_ZERO, taken, ends DONE with the time base set to 0. -/
theorem exec_timeZero_of_takes {s : State} {p : Port} {w : Word} (ht : s.takes p w) (hcode : commandCode w = 0x0E) :
    exec .timeZero s = .next (settle s (endCommand p .done (zeroTime (startCommand p w s)))) := by
  have hlisted : codeIs 0x0E (commandCode w) = true := by rw [hcode]; rfl
  rw [exec_timeZero_eq, execTimeZero, event_runCommand_of_takes ht hlisted (timeZero_eq p w _)]

end Sys2Proof.Machine

namespace Sys2Proof.Proofs

open Sys2Proof Sys2Proof.Machine

/-- Settles O55: by the command's end, where `zeroTime` writes the count and the position and no timer. -/
theorem timeSetToZero : Obligations.TimeSetToZero := by
  intro s p w ht hcode
  rw [exec_timeZero_of_takes ht hcode, zeroTime, startCommand]

end Sys2Proof.Proofs
end

section
/-! PROOF. COUNTERS_CLEAR (R167): what it makes of each owner's counters, and the command as the executor runs it. -/

namespace Sys2Proof.Machine

open Sys2Proof

/-! ## The owners -/

theorem Capture.countCleared_eq {α : Type} (c : Capture α) : c.countCleared = ⟨c.record, 0⟩ := rfl

/-- A port's fault counter and its overflow count are cleared; the fault recorded first stays. -/
theorem PortRecord.countsCleared_eq (r : PortRecord) :
    r.countsCleared = { r with faultCount := 0, capture := ⟨r.capture.record, 0⟩ } := by
  rw [PortRecord.countsCleared, Capture.countCleared_eq]

/-- The four counters of R53 are cleared; the frame counter and the rest of the record stay. -/
theorem Channel.countsCleared_eq :
    Channel.countsCleared = fun ch => { ch with dropped := 0, lost := 0, blocked := 0, empty := 0 } := rfl

/-! ## The command -/

theorem exec_countersClear_eq (s : State) : exec .countersClear s = execCountersClear s := rfl

/-- COUNTERS_CLEAR ends with DONE in every state the executor takes it in. -/
theorem countersClear_done (p : Port) (w : Word) (s : State) :
    countersClear p w s = (.done, (countersClear p w s).2) := rfl

/-- COUNTERS_CLEAR, taken, ends DONE in the state its owners leave. -/
theorem exec_countersClear_of_takes {s : State} {p : Port} {w : Word} (ht : s.takes p w)
    (hcode : commandCode w = 0x0D) :
    exec .countersClear s
      = .next (settle s (endCommand p .done (countersClear p w (startCommand p w s)).2)) := by
  have hlisted : codeIs 0x0D (commandCode w) = true := by rw [hcode]; rfl
  rw [exec_countersClear_eq, execCountersClear, event_runCommand_of_takes ht hlisted (countersClear_done p w _)]

end Sys2Proof.Machine

namespace Sys2Proof.Proofs

open Sys2Proof Sys2Proof.Machine

/-- Settles O54: by what each owner clears. The command's start writes the command states alone, so the owners read
their records as they stood before it. -/
theorem countersCleared : Obligations.CountersCleared := by
  intro s p w ht hcode
  rw [exec_countersClear_of_takes ht hcode]
  simp only [countersClear, startCommand, PortRecord.countsCleared_eq, Channel.countsCleared_eq,
    Capture.countCleared_eq, banks_setCommand, ports_setCommand, channels_setCommand, scrub_setCommand,
    memCapture_setCommand]

end Sys2Proof.Proofs
end

section
/-! SUPPORT. The rotation law of a channel (R36) under each operation on its record. -/

namespace Sys2Proof.Machine

open Sys2Proof

/-- A slot read after one slot was written. -/
theorem Channel.slot_setSlot (ch : Channel) (i j : Fin 8) (x : Slot) :
    (ch.setSlot i x).slot j = if j = i then x else ch.slot j := by
  by_cases h : j = i
  · rw [if_pos h, h, slot_setSlot_same]
  · rw [if_neg h, slot_setSlot_ne ch x h]

/-- The law speaks of the slot states and of five fields alone. -/
theorem Channel.lawful_congr {ch ch' : Channel} (h : ch.lawful)
    (hstate : ∀ i, (ch'.slot i).state = (ch.slot i).state) (hconfig : ch'.config = ch.config)
    (hnewest : ch'.newest = ch.newest) (hcommitted : ch'.committed = ch.committed) (hheld : ch'.held = ch.held)
    (hfilling : ch'.filling = ch.filling) : ch'.lawful := by
  unfold Channel.lawful at *
  simp only [hstate, hconfig, hnewest, hcommitted, hheld, hfilling]
  exact h

/-- An `if` by an equivalent condition. -/
theorem ite_of_iff {α : Type} {c d : Prop} [Decidable c] [Decidable d] {x y u v : α} (h : c ↔ d) (hx : x = u)
    (hy : y = v) : (if c then x else y) = if d then u else v :=
  ite_congr (propext h) (fun _ => hx) fun _ => hy

theorem length_le_of_nodup_subset {l : List Nat} : ∀ {r : List Nat}, l.Nodup → l ⊆ r → l.length ≤ r.length := by
  induction l with
  | nil => exact fun _ _ => Nat.zero_le _
  | cons a l ih =>
    intro r hn hs
    obtain ⟨ha, hl⟩ := List.nodup_cons.1 hn
    have har : a ∈ r := hs List.mem_cons_self
    have hrest : l ⊆ r.erase a := fun x hx =>
      (List.mem_erase_of_ne fun h : x = a => ha (h ▸ hx)).2 (hs (List.mem_cons_of_mem _ hx))
    have hle := ih hl hrest
    have hpos := List.length_pos_of_mem har
    rw [List.length_erase_of_mem har] at hle
    rw [List.length_cons]
    omega

/-- Distinct slots below a depth are at most that many. -/
theorem length_le_of_nodup_lt {l : List (Fin 8)} {d : Nat} (hn : l.Nodup) (hd : ∀ i ∈ l, i.val < d) :
    l.length ≤ d := by
  have hm : (l.map Fin.val).Nodup := List.pairwise_map.2 (hn.imp fun h e => h (Fin.ext e))
  have hs : l.map Fin.val ⊆ List.range d := by
    intro x hx
    obtain ⟨i, hi, rfl⟩ := List.mem_map.1 hx
    exact List.mem_range.2 (hd i hi)
  have hle := length_le_of_nodup_subset hm hs
  rwa [List.length_map, List.length_range] at hle

/-- A channel with every slot FREE and nothing named. -/
theorem Channel.lawful_of_empty {ch : Channel} (hstate : ∀ i, (ch.slot i).state = .free) (hnewest : ch.newest = none)
    (hcommitted : ch.committed = []) (hheld : ch.held = .none) (hfilling : ch.filling = none) : ch.lawful := by
  unfold Channel.lawful
  simp [hstate, hnewest, hcommitted, hheld, hfilling]

/-! ## The writer -/

theorem Channel.setSlot_config (ch : Channel) (i : Fin 8) (x : Slot) : (ch.setSlot i x).config = ch.config := rfl

/-- An open: a slot that is FREE, or in LATEST COMMITTED and dropped, becomes FILLING. -/
theorem Channel.lawful_startFilling {ch : Channel} {i : Fin 8} (h : ch.lawful) (hfill : ch.filling = none)
    (htake : ch.takable i = true) : (ch.startFilling i).lawful := by
  simp only [Channel.takable, Channel.holds, Bool.and_eq_true, decide_eq_true_eq, beq_iff_eq, Bool.not_eq_true',
    beq_eq_false_iff_ne] at htake
  obtain ⟨⟨⟨hdepth, _⟩, hfree⟩, hheld⟩ := htake
  have hslot : ∀ j, ((ch.startFilling i).slot j) = if j = i then (ch.slot i).opened else ch.slot j :=
    fun j => ch.slot_setSlot i j _
  unfold Channel.lawful at *
  simp only [hslot]
  simp only [Channel.startFilling, Channel.setSlot]
  grind [Slot.opened]

/-- The frame a drop takes is the newest, by the law of LATEST. -/
theorem Channel.lawful_dropFrame {ch : Channel} {i : Fin 8} (h : ch.lawful) (hmode : ch.config.mode = .latest)
    (hfill : ch.filling = none) (hdrop : ch.droppable i = true) : (ch.dropFrame i).lawful := by
  simp only [Channel.droppable, Channel.holds, Bool.and_eq_true, decide_eq_true_eq, beq_iff_eq, Bool.not_eq_true',
    beq_eq_false_iff_ne] at hdrop
  obtain ⟨⟨⟨hdepth, _⟩, hcommitted⟩, hheld⟩ := hdrop
  have hslot : ∀ j, ((ch.dropFrame i).slot j) = if j = i then (ch.slot i).opened else ch.slot j :=
    fun j => ch.slot_setSlot i j _
  unfold Channel.lawful at *
  simp only [hslot]
  simp only [Channel.dropFrame, Channel.startFilling, Channel.setSlot, Channel.heldCommitted]
  grind [Slot.opened]

/-- The channel with a newly committed frame in its place, in LATEST. -/
theorem Channel.lawful_committing_latest {ch : Channel} {i : Fin 8} (now : BitVec 32) (h : ch.lawful)
    (hmode : ch.config.mode = .latest) (hfill : ch.filling = some i) : (ch.committing i now).lawful := by
  have hslot : ∀ j, ((ch.committing i now).slot j).state =
      if j = i then .committed
      else if ch.newest = some j ∧ ch.held ≠ .slot j then .free else (ch.slot j).state := by
    intro j
    change (((ch.placeFrame i).setSlot i _).slot j).state = _
    rw [Channel.slot_setSlot]
    by_cases hji : j = i
    · simp only [if_pos hji]
    · simp only [if_neg hji, Channel.placeFrame, hmode, Channel.holds, beq_iff_eq]
      cases hn : ch.newest with
      | none => simp [Channel.slot]
      | some n =>
        have hfreed := ch.slot_setSlot n j (ch.slot n).freed
        by_cases hh : ch.held = .slot n
        · simp only [if_pos hh]
          grind [Channel.slot]
        · simp only [if_neg hh]
          change ((ch.setSlot n (ch.slot n).freed).slot j).state = _
          rw [hfreed]
          grind [Slot.freed]
  have hconfig : (ch.committing i now).config = ch.config := by
    change (ch.placeFrame i).config = _
    unfold Channel.placeFrame
    grind [Channel.setSlot]
  have hcommitted : (ch.committing i now).committed = ch.committed := by
    change (ch.placeFrame i).committed = _
    unfold Channel.placeFrame
    grind [Channel.setSlot]
  have hheld : (ch.committing i now).held = ch.held := by
    change (ch.placeFrame i).held = _
    unfold Channel.placeFrame
    grind [Channel.setSlot]
  have hnewest : (ch.committing i now).newest = some i := by
    change (ch.placeFrame i).newest = _
    unfold Channel.placeFrame
    grind [Channel.setSlot]
  have hfilling : (ch.committing i now).filling = none := rfl
  unfold Channel.lawful at *
  simp only [hslot, hconfig, hcommitted, hheld, hnewest, hfilling]
  obtain ⟨hfil, hnew, hhel, hcom, hnodup, hlatest, hqueue, hdepth, hcov, _⟩ := h
  refine ⟨?_, ?_, ?_, ?_, ?_, ?_, ?_, ?_, ?_, ?_, ?_, ?_⟩
  all_goals grind

/-- The channel with a newly committed frame at the end of its list, in QUEUE. -/
theorem Channel.lawful_committing_queue {ch : Channel} {i : Fin 8} (now : BitVec 32) (h : ch.lawful)
    (hmode : ch.config.mode = .queue) (hfill : ch.filling = some i) : (ch.committing i now).lawful := by
  have hslot : ∀ j, ((ch.committing i now).slot j).state =
      if j = i then .committed else (ch.slot j).state := by
    intro j
    simp only [Channel.committing, Channel.commitSlot, Channel.refreshed, Channel.placeFrame, hmode]
    change (((Channel.setSlot _ i _).slot j).state) = _
    rw [Channel.slot_setSlot]
    grind [Channel.slot]
  have hlen : (ch.committed ++ [i]).Nodup → (∀ j ∈ ch.committed ++ [i], j.val < ch.config.depth) →
      (ch.committed ++ [i]).length ≤ ch.config.depth := length_le_of_nodup_lt
  unfold Channel.lawful at *
  simp only [hslot]
  simp only [Channel.committing, Channel.commitSlot, Channel.refreshed, Channel.placeFrame, hmode, Channel.setSlot]
  grind

theorem Channel.lawful_committing {ch : Channel} {i : Fin 8} (now : BitVec 32) (h : ch.lawful)
    (hfill : ch.filling = some i) : (ch.committing i now).lawful := by
  cases hmode : ch.config.mode with
  | latest => exact Channel.lawful_committing_latest now h hmode hfill
  | queue => exact Channel.lawful_committing_queue now h hmode hfill

theorem Channel.slot_copyEnded (ch : Channel) (i : Fin 8) :
    ch.copyEnded.slot i = { ch.slot i with copySource := false } :=
  vector_get_map _ ch.slots i

/-- The copy's end changes no slot state. -/
theorem Channel.lawful_copyEnded {ch : Channel} (h : ch.lawful) : ch.copyEnded.lawful :=
  Channel.lawful_congr h (fun i => by rw [ch.slot_copyEnded]) rfl rfl rfl rfl rfl

/-- The end of a filling without a frame. -/
theorem Channel.lawful_fillingEnded {ch : Channel} (h : ch.lawful) : ch.fillingEnded.lawful := by
  cases hfill : ch.filling with
  | none => simpa only [Channel.fillingEnded, hfill] using h
  | some i =>
    have hslot : ∀ j, (ch.fillingEnded.slot j).state = if j = i then .free else (ch.slot j).state := by
      intro j
      simp only [Channel.fillingEnded, hfill]
      change (((ch.setSlot i (ch.slot i).freed).copyEnded).slot j).state = _
      rw [Channel.slot_copyEnded, Channel.slot_setSlot]
      split <;> rfl
    unfold Channel.lawful at *
    simp only [hslot]
    simp only [Channel.fillingEnded, hfill, Channel.copyEnded, Channel.setSlot]
    grind

/-! ## The reader -/

theorem Channel.lawful_releaseLatest {ch : Channel} (h : ch.lawful) (hmode : ch.config.mode = .latest) :
    ch.releaseLatest.lawful := by
  have hfreed : ∀ i j, ((ch.setSlot i (ch.slot i).freed).slots.get j).state =
      if j = i then .free else (ch.slots.get j).state := by
    intro i j
    change ((ch.setSlot i (ch.slot i).freed).slot j).state = _
    rw [ch.slot_setSlot]
    split <;> rfl
  unfold Channel.lawful at *
  simp only [Channel.slot] at *
  obtain ⟨hfil, hnew, hhel, hcom, hnodup, hlatest, hqueue, hdepth, hcov, hlist, hhd, hlen⟩ := h
  have hnil := hlatest hmode
  unfold Channel.releaseLatest
  split
  · grind
  · grind
  · split
    · simp only [Channel.slot]
      refine ⟨?_, ?_, ?_, ?_, ?_, ?_, ?_, ?_, ?_, ?_, ?_, ?_⟩
      all_goals grind [Channel.setSlot]
    · split
      · refine ⟨?_, ?_, ?_, ?_, ?_, ?_, ?_, ?_, ?_, ?_, ?_, ?_⟩
        all_goals grind
      · simp only [Channel.slot]
        refine ⟨?_, ?_, ?_, ?_, ?_, ?_, ?_, ?_, ?_, ?_, ?_, ?_⟩
        all_goals grind [Channel.setSlot]

theorem Channel.held_releaseLatest (ch : Channel) : ch.releaseLatest.held = .none := by
  unfold Channel.releaseLatest
  grind

/-- A LATEST snapshot by a reader that holds nothing. -/
theorem Channel.lawful_snapshotLatest {ch : Channel} (h : ch.lawful) (hmode : ch.config.mode = .latest)
    (hheld : ch.held = .none) : ch.snapshotLatest.lawful := by
  unfold Channel.snapshotLatest Channel.lawful at *
  simp only [Channel.slot] at *
  grind

theorem Channel.lawful_snapshotQueue {ch : Channel} (h : ch.lawful) (hmode : ch.config.mode = .queue) :
    ch.snapshotQueue.lawful := by
  unfold Channel.snapshotQueue
  split
  · rename_i i hhead
    have hmem : i ∈ ch.committed := List.mem_of_head? hhead
    unfold Channel.lawful at *
    simp only [Channel.slot] at *
    obtain ⟨hfil, hnew, hhel, hcom, hnodup, hlatest, hqueue, hdepth, hcov, hlist, hhd, hlen⟩ := h
    refine ⟨?_, ?_, ?_, ?_, ?_, ?_, ?_, ?_, ?_, ?_, ?_, ?_⟩
    all_goals grind
  · exact h

theorem Channel.config_releaseLatest (ch : Channel) : ch.releaseLatest.config = ch.config := by
  unfold Channel.releaseLatest
  grind [Channel.setSlot]

theorem Channel.lawful_tagSnapshot {ch : Channel} (h : ch.lawful) : ch.tagSnapshot.lawful := by
  unfold Channel.tagSnapshot
  split
  · rename_i hmode
    exact Channel.lawful_snapshotLatest (Channel.lawful_releaseLatest h hmode)
      (by rw [Channel.config_releaseLatest, hmode]) (Channel.held_releaseLatest ch)
  · rename_i hmode
    split
    · exact Channel.lawful_snapshotQueue h hmode
    · exact h

theorem Channel.lawful_dataSnapshot {ch : Channel} (h : ch.lawful) : ch.dataSnapshot.lawful := by
  unfold Channel.dataSnapshot
  split
  · rename_i hheld
    split
    · rename_i hmode
      exact Channel.lawful_snapshotLatest h hmode hheld
    · rename_i hmode
      exact Channel.lawful_snapshotQueue h hmode
  · exact h

/-- A QUEUE release takes the head of the list. -/
theorem Channel.lawful_releaseQueue {ch : Channel} {i : Fin 8} (h : ch.lawful) (hmode : ch.config.mode = .queue)
    (hheld : ch.held = .slot i) : (ch.releaseQueue i).lawful := by
  have hslot : ∀ j, ((ch.releaseQueue i).slot j).state = if j = i then .free else (ch.slot j).state := by
    intro j
    change ((ch.setSlot i (ch.slot i).freed).slot j).state = _
    rw [ch.slot_setSlot]
    split <;> rfl
  unfold Channel.lawful at *
  simp only [hslot]
  simp only [Channel.releaseQueue, Channel.setSlot]
  obtain ⟨hfil, hnew, hhel, hcom, hnodup, hlatest, hqueue, hdepth, hcov, hlist, hhd, hlen⟩ := h
  have hmem : ∀ j, j ∈ ch.committed.erase i ↔ j ≠ i ∧ j ∈ ch.committed := fun j => hnodup.mem_erase_iff
  have hle := List.length_erase_le (a := i) (l := ch.committed)
  refine ⟨?_, ?_, ?_, ?_, hnodup.erase _, ?_, ?_, ?_, ?_, ?_, ?_, ?_⟩
  all_goals grind

/-! ## Slots leaving use -/

/-- The frames lost are COMMITTED and not held. -/
theorem Channel.lawful_loseFrames {ch : Channel} {gone : List (Fin 8)} (h : ch.lawful)
    (hgone : ∀ i ∈ gone, ch.losesFrame i = true) : (ch.loseFrames gone).lawful := by
  have hslot : ∀ j, ((ch.loseFrames gone).slot j).state = if j ∈ gone then .free else (ch.slot j).state := by
    intro j
    have hget : (ch.loseFrames gone).slot j = if gone.any (fun g => g.val == j.val) then (ch.slot j).freed else ch.slot j :=
      vector_get_mapIdx _ ch.slots j
    rw [hget]
    have hany : gone.any (fun g => g.val == j.val) = decide (j ∈ gone) := by
      rw [Bool.eq_iff_iff, List.any_eq_true]
      grind
    rw [hany]
    grind [Slot.freed, Channel.slot]
  simp only [Channel.losesFrame, Channel.holds, Bool.and_eq_true, Bool.not_eq_true', beq_iff_eq,
    beq_eq_false_iff_ne] at hgone
  have hhead : ∀ i, i ∉ gone → ch.committed.head? = some i →
      (ch.committed.filter (fun i => !gone.contains i)).head? = some i := by
    intro i hi hh
    cases hc : ch.committed with
    | nil => simp [hc] at hh
    | cons x xs => grind
  unfold Channel.lawful at *
  simp only [hslot]
  simp only [Channel.loseFrames]
  have hheldC : ∀ i, ch.heldCommitted = some i ↔ ch.held = .slot i ∧ (ch.slot i).state = .committed := by
    unfold Channel.heldCommitted
    grind
  obtain ⟨hfil, hnew, hhel, hcom, hnodup, hlatest, hqueue, hdepth, hcov, hlist, hhd, hlen⟩ := h
  have hle := List.length_filter_le (fun i => !gone.contains i) ch.committed
  refine ⟨?_, ?_, ?_, ?_, hnodup.filter _, ?_, ?_, ?_, ?_, ?_, ?_, ?_⟩
  all_goals grind

/-! ## Commands -/

theorem Channel.lawful_disabled (ch : Channel) : ch.disabled.lawful :=
  Channel.lawful_of_empty (fun i => by rw [Channel.disabled, Channel.slot, Channel.slotsFreed, vector_get_map]; rfl)
    rfl rfl rfl rfl

theorem Channel.lawful_enabled (ch : Channel) (up : Bool) : (ch.enabled up).lawful :=
  Channel.lawful_disabled ch

theorem Channel.lawful_loaded (cfg : ChannelConfig) (up : Bool) : (Channel.loaded cfg up).lawful :=
  Channel.lawful_of_empty (fun i => by rw [Channel.loaded, Channel.slot, vector_get_replicate]; rfl)
    rfl rfl rfl rfl

end Sys2Proof.Machine
end

section
/-! SUPPORT. What every operation of a step keeps: the queue of commands, the pin, and the five invariants of Safety.lean.
One lemma for each operation, composed by transitivity along the definitions. -/

namespace Sys2Proof.Machine

open Sys2Proof

/-! ## The relation -/

/-- The part of `loadingQuiet` that holds between two settlings of a step as well: during LOADING the time stands at 0
and no lock is open. -/
def loadingStill (s : State) : Prop :=
  s.device = .loading → s.msCount = 0 ∧ s.usInMs = 0 ∧ s.arbiter.lock = none

/-- What an operation keeps from one state to the next. -/
structure Keeps (s t : State) : Prop where
  pin : t.pinAsserted = s.pinAsserted
  pending : t.pending = s.pending
  memory : memoryCanonical s → memoryCanonical t
  dirty : dirtySetOrdered s → dirtySetOrdered t
  passes : fairnessBounded s → fairnessBounded t
  still : loadingStill s → loadingStill t
  channels : channelsLawful s → channelsLawful t

theorem Keeps.refl (s : State) : Keeps s s := ⟨rfl, rfl, id, id, id, id, id⟩

theorem Keeps.trans {s t u : State} (h : Keeps s t) (h' : Keeps t u) : Keeps s u :=
  ⟨h'.pin.trans h.pin, h'.pending.trans h.pending, h'.memory ∘ h.memory, h'.dirty ∘ h.dirty, h'.passes ∘ h.passes,
    h'.still ∘ h.still, h'.channels ∘ h.channels⟩

/-- A round kept by each step of a fold is kept by the fold. -/
theorem Keeps.foldl {α : Type} {f : State → α → State} (hf : ∀ s x, Keeps s (f s x)) (l : List α) (s : State) :
    Keeps s (l.foldl f s) :=
  foldl_touches f Keeps Keeps.refl (fun _ _ _ => Keeps.trans) hf l s

/-! ## The four fields that carry an invariant -/

theorem Keeps.settle (s t : State) : Keeps t (settle s t) :=
  ⟨rfl, rfl, id, dirtySetOrdered_settle s t, id, id, id⟩

theorem Keeps.markDirty (off : Nat) (s : State) : Keeps s (markDirty off s) :=
  ⟨rfl, rfl, id, ascending_insertOffset off, id, id, id⟩

theorem Keeps.markAll (offs : List Nat) (s : State) : Keeps s (markAll offs s) :=
  ⟨rfl, rfl, id, ascending_foldl_insertOffset offs, id, id, id⟩

/-- Closing the lock. -/
theorem Keeps.unlock (s : State) : Keeps s (s.setLock none) :=
  ⟨rfl, rfl, id, id, id, fun h hl => ⟨(h hl).1, (h hl).2.1, rfl⟩, id⟩

theorem channelsLawful_setChan {s : State} {c : ChanId} {x : Option Channel} (h : channelsLawful s)
    (hx : ∀ ch, x = some ch → ch.lawful) : channelsLawful (s.setChan c x) := by
  intro d ch hd
  by_cases hdc : d = c
  · subst hdc
    exact hx ch (by rwa [chan_setChan_same] at hd)
  · exact h d ch (by rwa [chan_setChan_ne s x hdc] at hd)

/-- An entry replaced by one that is lawful when the channels are. -/
theorem Keeps.setChan {s : State} {c : ChanId} {x : Option Channel} (h : channelsLawful s → ∀ ch, x = some ch → ch.lawful) :
    Keeps s (s.setChan c x) :=
  ⟨rfl, rfl, id, id, id, id, fun hs => channelsLawful_setChan hs (h hs)⟩

/-- An entry rewritten by an operation that keeps the law. -/
theorem Keeps.rewriteChan {s : State} {c : ChanId} {ch ch' : Channel} (hc : s.chan c = some ch)
    (h : ch.lawful → ch'.lawful) : Keeps s (s.setChan c (some ch')) :=
  Keeps.setChan (fun hs x hx => by cases hx; exact h (hs c ch hc))

/-- Every entry rewritten alike. -/
theorem Keeps.mapChannels {s : State} (f : Channel → Channel) (h : ∀ ch, ch.lawful → (f ch).lawful) :
    Keeps s { s with channels := s.channels.map (fun e => e.map f) } := by
  refine ⟨rfl, rfl, id, id, id, id, fun hs c ch hc => ?_⟩
  have he : ({ s with channels := s.channels.map (fun e => e.map f) } : State).chan c = (s.chan c).map f :=
    vector_get_map _ s.channels c
  rw [he] at hc
  obtain ⟨x, hx, rfl⟩ := Option.map_eq_some_iff.1 hc
  exact h x (hs c x hx)

/-! ## Flags -/

theorem Keeps.raiseGlobal (l : Port) (f : GlobalFlag) (s : State) : Keeps s (raiseGlobal l f s) := by
  obtain ⟨g, h⟩ := raiseGlobal_touches l f s
  rw [h]; exact ⟨rfl, rfl, id, id, id, id, id⟩

theorem Keeps.raiseBoth (f : GlobalFlag) (s : State) : Keeps s (raiseBoth f s) := by
  obtain ⟨g, h⟩ := raiseBoth_touches f s
  rw [h]; exact ⟨rfl, rfl, id, id, id, id, id⟩

theorem Keeps.raiseChannel (c : ChanId) (f : ChannelFlag) (s : State) : Keeps s (raiseChannel c f s) := by
  obtain ⟨g, h⟩ := raiseChannel_touches c f s
  rw [h]; exact ⟨rfl, rfl, id, id, id, id, id⟩

theorem Keeps.clearChannelFlags (c : ChanId) (s : State) : Keeps s (clearChannelFlags c s) := by
  obtain ⟨g, q, h⟩ := clearChannelFlags_touches c s
  rw [h]; exact ⟨rfl, rfl, id, id, id, id, id⟩

theorem Keeps.ackGlobal (l : Port) (w : Word) (s : State) : Keeps s (ackGlobal l w s) := by
  obtain ⟨g, q, h⟩ := ackGlobal_touches l w s
  rw [h]; exact ⟨rfl, rfl, id, id, id, id, id⟩

theorem Keeps.ackChannel (w : Word) (s : State) : Keeps s (ackChannel w s) := by
  obtain ⟨g, q, h⟩ := ackChannel_touches w s
  rw [h]; exact ⟨rfl, rfl, id, id, id, id, id⟩

theorem Keeps.postFlags (off : Nat) (carried : List Nat) (s : State) : Keeps s (postFlags off carried s) := by
  obtain ⟨g, q, h⟩ := postFlags_touches off carried s
  rw [h]; exact ⟨rfl, rfl, id, id, id, id, id⟩

/-! ## Records that carry no invariant -/

theorem Keeps.setPort (s : State) (p : Port) (r : PortRecord) : Keeps s (s.setPort p r) :=
  ⟨rfl, rfl, id, id, id, id, id⟩

theorem Keeps.setPhase (s : State) (p : Port) (ph : PortPhase) : Keeps s (s.setPhase p ph) :=
  ⟨rfl, rfl, id, id, id, id, id⟩

theorem Keeps.setBank (s : State) (b : BankId) (x : Bank) : Keeps s (s.setBank b x) :=
  ⟨rfl, rfl, id, id, id, id, id⟩

theorem Keeps.setProbe (s : State) (b : BankId) (q : Probe) : Keeps s (s.setProbe b q) :=
  ⟨rfl, rfl, id, id, id, id, id⟩

theorem Keeps.setCommand (s : State) (p : Port) (x : PortCommand) : Keeps s (s.setCommand p x) :=
  ⟨rfl, rfl, id, id, id, id, id⟩

theorem Keeps.setBusy (s : State) (b : Option Busy) : Keeps s (s.setBusy b) :=
  ⟨rfl, rfl, id, id, id, id, id⟩

theorem Keeps.occupy (s : State) (op : BusyOp) : Keeps s (s.occupy op) :=
  ⟨rfl, rfl, id, id, id, id, id⟩

theorem Keeps.setScrub (s : State) (x : Scrubber) : Keeps s (s.setScrub x) :=
  ⟨rfl, rfl, id, id, id, id, id⟩

theorem Keeps.setEngine (s : State) (e : EngineState) : Keeps s (s.setEngine e) :=
  ⟨rfl, rfl, id, id, id, id, id⟩

theorem Keeps.engineIdle (s : State) : Keeps s (engineIdle s) :=
  ⟨rfl, rfl, id, id, id, id, id⟩

theorem Keeps.setRequest (s : State) (q : MirrorRequest) :
    Keeps s { s with mirror := { s.mirror with request := q } } :=
  ⟨rfl, rfl, id, id, id, id, id⟩

/-! ## Answers -/

theorem Keeps.giveAnswer (p : Port) (a : Access) (ans : Answer) (addr : BitVec 24) (locked : Bool) (s : State) :
    Keeps s (giveAnswer p a ans addr locked s) := by
  obtain ⟨x, g, h⟩ := giveAnswer_touches p a ans addr locked s
  rw [h]; exact ⟨rfl, rfl, id, id, id, id, id⟩

theorem Keeps.answerFault (p : Port) (a : Access) (f : FaultCode) (s : State) : Keeps s (answerFault p a f s) :=
  Keeps.giveAnswer p a _ _ _ s

theorem Keeps.answerOkay (p : Port) (a : Access) (s : State) : Keeps s (answerOkay p a s) :=
  Keeps.giveAnswer p a _ _ _ s

theorem Keeps.answerZero (p : Port) (a : Access) (s : State) : Keeps s (answerZero p a s) :=
  Keeps.giveAnswer p a _ _ _ s

/-! ## Word accesses -/

/-- A word access touches the memory, the banks' counts and the check unit's records. -/
theorem Keeps.of_checkTouch {s t : State} (h : CheckTouch s t) (hm : memoryCanonical s → memoryCanonical t) :
    Keeps s t := by
  obtain ⟨m, l, k, e, c, r, g, rfl⟩ := h
  exact ⟨rfl, rfl, hm, id, id, id, id⟩

theorem Keeps.storeWord (b : BankId) (addr : Nat) (v : Word) (s : State) : Keeps s (storeWord b addr v s) :=
  .of_checkTouch (.store b addr v s) canonical_storeWord

theorem Keeps.storePoison (addr : Nat) (v : Word) (s : State) : Keeps s (storePoison addr v s) :=
  .of_checkTouch (.poison addr v s) canonical_storePoison

theorem Keeps.storeBytes (addr : Nat) (v : Word) (s : State) : Keeps s (storeBytes addr v s) :=
  .of_checkTouch (.bytes addr v s) canonical_storeBytes

theorem Keeps.countCorrected (s : State) : Keeps s (countCorrected s) := by
  obtain ⟨e, g, h⟩ := countCorrected_touches s
  rw [h]; exact ⟨rfl, rfl, id, id, id, id, id⟩

theorem Keeps.countUncorrectable (src : Source) (b : BankId) (addr : Nat) (s : State) :
    Keeps s (countUncorrectable src b addr s) := by
  obtain ⟨k, e, m, r, g, h⟩ := countUncorrectable_touches src b addr s
  rw [h]; exact ⟨rfl, rfl, id, id, id, id, id⟩

theorem Keeps.countPoisoned (src : Source) (s : State) : Keeps s (countPoisoned src s) := by
  obtain ⟨e, g, h⟩ := countPoisoned_touches src s
  rw [h]; exact ⟨rfl, rfl, id, id, id, id, id⟩

theorem Keeps.readClassed (src : Source) (b : BankId) (addr : Nat) (cls : CheckClass) (bud : Option Nat) (s : State) :
    Keeps s (readClassed src b addr cls bud s).2.2 := by
  cases cls with
  | clean => exact .refl s
  | corrected v =>
    simp only [Machine.readClassed]
    split
    · exact .refl s
    · exact (Keeps.storeWord b addr v s).trans (.countCorrected _)
  | uncorrectable =>
    simp only [Machine.readClassed]
    split
    · exact .refl s
    · exact (Keeps.storePoison addr _ s).trans (.countUncorrectable src b addr _)
  | poisoned => exact .countPoisoned src s

theorem Keeps.readAccess (src : Source) (b : BankId) (addr : Nat) (bud : Option Nat) (s : State) :
    Keeps s (readAccess src b addr bud s).2.2 := by
  unfold Machine.readAccess
  split
  · exact .refl s
  · split
    · exact .readClassed src b addr _ _ s
    · exact .refl s

theorem Keeps.readWords (src : Source) (b : BankId) :
    ∀ (l : List Nat) (bud : Option Nat) (s : State), Keeps s (readWords src b l bud s).2 := by
  intro l
  induction l with
  | nil => exact fun _ s => .refl s
  | cons addr rest ih =>
    intro bud s
    have h := Keeps.readAccess src b addr bud s
    unfold Machine.readWords
    split
    · rename_i d bud1 s1 he
      rw [he] at h
      exact h.trans (ih bud1 s1)
    · rename_i out bud1 s1 _ he
      rw [he] at h
      exact h

theorem Keeps.writeWords (b : BankId) :
    ∀ (l : List (Nat × Word)) (bud : Option Nat) (s : State), Keeps s (writeWords b l bud s).2 := by
  intro l
  induction l with
  | nil => exact fun _ s => .refl s
  | cons e rest ih =>
    intro bud s
    unfold Machine.writeWords
    split
    · exact .refl s
    · exact (Keeps.storeWord b e.1 e.2 s).trans (ih _ _)

theorem Keeps.mergeClassed (src : Source) (b : BankId) (addr lane size : Nat) (v : Word) (cls : CheckClass)
    (bud : Option Nat) (s : State) : Keeps s (mergeClassed src b addr lane size v cls bud s).2 := by
  cases cls with
  | clean =>
    simp only [Machine.mergeClassed]
    split
    · exact .refl s
    · exact .storeWord b addr _ s
  | corrected d =>
    simp only [Machine.mergeClassed]
    split
    · exact .refl s
    · exact (Keeps.storeWord b addr _ s).trans (.countCorrected _)
  | uncorrectable =>
    simp only [Machine.mergeClassed]
    split
    · exact .refl s
    · exact (Keeps.storePoison addr _ s).trans (.countUncorrectable src b addr _)
  | poisoned => exact .countPoisoned src s

theorem Keeps.subWordWrite (src : Source) (b : BankId) (addr lane size : Nat) (v : Word) (bud : Option Nat)
    (s : State) : Keeps s (subWordWrite src b addr lane size v bud s).2 := by
  unfold Machine.subWordWrite readModifyWrite
  split
  · split
    · exact .refl s
    · exact .mergeClassed ..
  · split
    · exact .refl s
    · exact .storeBytes addr _ s

theorem Keeps.portRun (p : Port) (op : PortOp) (bud : Option Nat) (s : State) : Keeps s (portRun p op bud s).2 := by
  unfold Machine.portRun
  split
  · split
    · exact .writeWords ..
    · exact .subWordWrite ..
  · exact Keeps.readWords _ _ _ _ s

/-! ## The end of a port's operation -/

theorem Keeps.acceptCommand (p : Port) (w : Word) (s : State) : Keeps s (acceptCommand p w s) := by
  unfold Machine.acceptCommand
  split
  · split
    · exact .refl s
    · exact (show Keeps s { s.setCommand p _ with nextStamp := s.nextStamp + 1 } from ⟨rfl, rfl, id, id, id, id, id⟩).trans
        (.markDirty ..)
  all_goals exact ((Keeps.setCommand s p _).trans (.markDirty ..)).trans (.raiseGlobal ..)

theorem Keeps.endCommand (p : Port) (o : CommandOutcome) (s : State) : Keeps s (endCommand p o s) :=
  ((Keeps.setCommand s p _).trans (.markDirty ..)).trans (.raiseGlobal ..)

/-- No lock is opened during LOADING (log 18). -/
theorem Keeps.lockAfter (p : Port) (tag : OpTag) (f : Option FaultCode) (s : State) : Keeps s (lockAfter p tag f s) := by
  cases tag with
  | lockedRead addr =>
    simp only [Machine.lockAfter]
    split
    · rename_i h
      have hrun : s.device ≠ .loading := by simpa using (Bool.and_eq_true_iff.1 h).2
      exact ⟨rfl, rfl, id, id, id, fun _ hl => absurd hl hrun, id⟩
    · exact .refl s
  | writeHalf => exact .unlock s
  | plain => exact .refl s
  | bcb off => exact .refl s
  | commitWord c i => exact .refl s

theorem Keeps.answerOp (p : Port) (a : Access) (op : PortOp) (r : OpResult) (s : State) :
    Keeps s (answerOp p a op r s) := by
  unfold Machine.answerOp
  split
  · split
    · exact (Keeps.acceptCommand ..).trans (.giveAnswer ..)
    · exact .setPort ..
  all_goals exact .giveAnswer ..

theorem Keeps.putLast (p : Port) (a : Access) (op : PortOp) (s : State) : Keeps s (putLast p a op s) := by
  unfold Machine.putLast
  split
  · exact .setPhase ..
  · exact .answerOp ..

theorem Keeps.releaseKeptBack (p : Port) (tag : OpTag) (s : State) : Keeps s (releaseKeptBack p tag s) := by
  unfold Machine.releaseKeptBack
  split
  · split
    · split
      · exact .putLast ..
      · exact .refl s
    · exact .refl s
  all_goals exact .refl s

theorem Keeps.endPortOp (p : Port) (a : Access) (op : PortOp) (r : OpResult) (s : State) :
    Keeps s (endPortOp p a op r s) :=
  ((Keeps.lockAfter ..).trans (.answerOp ..)).trans (.releaseKeptBack ..)

theorem Keeps.putPort (p : Port) (a : Access) (op : PortOp) (s : State) : Keeps s (putPort p a op s) := by
  unfold Machine.putPort
  split
  · exact .setPhase ..
  · exact .endPortOp ..

theorem Keeps.putWords (p : Port) (a : Access) (addrs : List Nat) (data : List Word) (tag : OpTag) (s : State) :
    Keeps s (putWords p a addrs data tag s) := by
  unfold Machine.putWords
  split
  · exact .putPort ..
  · exact .answerFault ..

end Sys2Proof.Machine
end

section
/-! SUPPORT. What the steps of frame rotation, of the copy engine, the scrubber and bank health keep. -/

namespace Sys2Proof.Machine

open Sys2Proof

/-! ## Opening -/

theorem Channel.lawful_carryStart {ch : Channel} (n : Fin 8) (h : ch.lawful) :
    Channel.lawful { ch.setSlot n { ch.slot n with copySource := true } with copy := .queued } := by
  refine Channel.lawful_congr h (fun i => ?_) rfl rfl rfl rfl rfl
  change ((ch.setSlot n { ch.slot n with copySource := true }).slot i).state = _
  rw [Channel.slot_setSlot]
  split
  · rename_i hi; rw [hi]
  · rfl

theorem Keeps.openFree {s : State} {c : ChanId} {ch : Channel} {i : Fin 8} (hc : s.chan c = some ch)
    (hfill : ch.filling = none) (htake : ch.takable i = true) : Keeps s (openFree c ch i s) := by
  unfold Machine.openFree
  split
  · exact .rewriteChan hc (fun h => Channel.lawful_startFilling h hfill htake)
  · rename_i n _
    refine (Keeps.rewriteChan hc (ch' := { (ch.startFilling i).setSlot n _ with copy := .queued }) (fun h =>
      Channel.lawful_carryStart n (Channel.lawful_startFilling h hfill htake))).trans ?_
    exact ⟨rfl, rfl, id, id, id, id, id⟩

theorem Keeps.openSlot {s t : State} {c : ChanId} {ch : Channel} (hc : s.chan c = some ch) (hfill : ch.filling = none)
    (h : openSlot c ch s = some t) : Keeps s t := by
  unfold Machine.openSlot at h
  split at h
  · rename_i i hi
    cases h
    exact .openFree hc hfill (List.find?_some hi)
  · split at h
    · cases h
    · rename_i hmode
      split at h
      · rename_i i hi
        cases h
        exact (Keeps.rewriteChan hc (fun hl => Channel.lawful_dropFrame hl hmode hfill (List.find?_some hi))).trans
          (.raiseChannel ..)
      · cases h

theorem Keeps.refuseOpen {s : State} {p : Port} {a : Access} {c : ChanId} {ch : Channel} (hc : s.chan c = some ch) :
    Keeps s (refuseOpen p a c ch s) :=
  ((Keeps.rewriteChan hc (fun h => by exact h)).trans (.raiseChannel ..)).trans (.answerFault ..)

/-- A writer's write keeps what its continuation keeps. -/
theorem Keeps.withFilling {s : State} {p : Port} {a : Access} {c : ChanId} {ch : Channel}
    {k : Channel → Fin 8 → State → State} (hc : s.chan c = some ch)
    (hk : ∀ ch1 i u, u.chan c = some ch1 → ch1.filling = some i → Keeps u (k ch1 i u)) :
    Keeps s (withFilling p a c ch s k) := by
  unfold Machine.withFilling
  split
  · rename_i i hi
    exact hk ch i s hc hi
  · rename_i hfill
    split
    · exact .refuseOpen hc
    · rename_i s1 hopen
      refine (Keeps.openSlot hc hfill hopen).trans ?_
      split
      · rename_i ch1 hc1
        split
        · rename_i i hi
          exact hk ch1 i s1 hc1 hi
        · exact .refl s1
      · exact .refl s1

/-! ## Window accesses -/

theorem Channel.lawful_written {ch : Channel} (i : Fin 8) (w : List Nat) (h : ch.lawful) :
    (ch.setSlot i { ch.slot i with written := w }).lawful := by
  refine Channel.lawful_congr h (fun j => ?_) rfl rfl rfl rfl rfl
  rw [Channel.slot_setSlot]
  split
  · rename_i hj; rw [hj]
  · rfl

theorem Keeps.writeInto {s : State} {p : Port} {a : Access} {c : ChanId} {off : Nat} {ch : Channel} {i : Fin 8}
    (hc : s.chan c = some ch) : Keeps s (writeInto p a c off ch i s) := by
  refine (Keeps.rewriteChan hc (fun h => ?_)).trans (.putWords ..)
  split
  · exact Channel.lawful_written i _ h
  · exact h

theorem Keeps.carryOutCommit {s : State} {p : Port} {a : Access} {c : ChanId} {ch : Channel} {i : Fin 8} {tag : Word}
    (hl : channelsLawful s → ch.lawful) (hfill : ch.filling = some i) : Keeps s (carryOutCommit p a c ch i tag s) :=
  ((Keeps.setChan (fun hs x hx => by cases hx; exact Channel.lawful_committing _ (hl hs) hfill)).trans
    (.raiseChannel ..)).trans (.putWords ..)

theorem Keeps.commitInto {s : State} {p : Port} {a : Access} {c : ChanId} {ch : Channel} {i : Fin 8}
    (hc : s.chan c = some ch) (hfill : ch.filling = some i) : Keeps s (commitInto p a c ch i s) := by
  unfold Machine.commitInto
  split
  · exact .carryOutCommit (fun hs => hs c ch hc) hfill
  all_goals exact (Keeps.rewriteChan hc (fun h => by exact h)).trans (.setPhase ..)

theorem Keeps.abortAtEngine (c : ChanId) (copy : ChannelCopy) (s : State) : Keeps s (abortAtEngine c copy s) := by
  cases copy <;> exact ⟨rfl, rfl, id, id, id, id, id⟩

theorem Keeps.emptyRead {s : State} {p : Port} {a : Access} {c : ChanId} {ch : Channel}
    (hl : channelsLawful s → ch.lawful) : Keeps s (emptyRead p a c ch s) :=
  (Keeps.setChan (fun hs x hx => by cases hx; exact hl hs)).trans (.answerZero ..)

theorem Keeps.putTagRead (p : Port) (a : Access) (c : ChanId) (ch : Channel) (i : Fin 8) (s : State) :
    Keeps s (putTagRead p a c ch i s) := by
  unfold Machine.putTagRead
  split
  · split
    · exact .setPhase ..
    · exact .answerFault ..
  · exact .putWords ..

/-- A request taken at a configured channel keeps the invariants. -/
def WindowTake.keeping (f : WindowTake) : Prop :=
  ∀ (p : Port) (a : Access) (c : ChanId) (ch : Channel) (off : Nat) (s : State),
    s.chan c = some ch → Keeps s (f p a c ch off s)

theorem keeping_takeDataWrite : WindowTake.keeping takeDataWrite :=
  fun _ _ _ _ _ _ hc => .withFilling hc (fun _ _ _ hc1 _ => .writeInto hc1)

theorem keeping_takeWriterRead : WindowTake.keeping takeWriterRead := by
  intro p a c ch off s _
  unfold takeWriterRead
  split
  · exact .putWords ..
  · split
    · exact .putWords ..
    · exact .answerZero ..

theorem keeping_takeWriterTagRead : WindowTake.keeping takeWriterTagRead := by
  intro p a c ch off s _
  unfold takeWriterTagRead
  split
  · exact .putWords ..
  · exact .answerZero ..

theorem keeping_takeCommit : WindowTake.keeping takeCommit :=
  fun _ _ _ _ _ _ hc => .withFilling hc (fun _ _ _ hc1 hf => .commitInto hc1 hf)

theorem keeping_takeDiscard : WindowTake.keeping takeDiscard := by
  intro p a c ch off s hc
  unfold takeDiscard
  split
  · exact ((Keeps.rewriteChan hc Channel.lawful_fillingEnded).trans (.abortAtEngine ..)).trans (.answerOkay ..)
  · exact .answerOkay ..

theorem keeping_takeReaderTagRead : WindowTake.keeping takeReaderTagRead := by
  intro p a c ch off s hc
  unfold takeReaderTagRead
  dsimp only
  split
  · exact .emptyRead (fun hs => Channel.lawful_tagSnapshot (hs c ch hc))
  · exact (Keeps.rewriteChan hc Channel.lawful_tagSnapshot).trans (.putTagRead ..)
  · exact (Keeps.rewriteChan hc Channel.lawful_tagSnapshot).trans (.putWords ..)

theorem keeping_takeReaderDataRead : WindowTake.keeping takeReaderDataRead := by
  intro p a c ch off s hc
  unfold takeReaderDataRead
  dsimp only
  split
  · exact .emptyRead (fun hs => Channel.lawful_dataSnapshot (hs c ch hc))
  all_goals exact (Keeps.rewriteChan hc Channel.lawful_dataSnapshot).trans (.putWords ..)

theorem keeping_takeRelease : WindowTake.keeping takeRelease := by
  intro p a c ch off s hc
  unfold takeRelease
  split
  · rename_i hmode
    exact (Keeps.rewriteChan hc (fun h => Channel.lawful_releaseLatest h hmode)).trans (.answerOkay ..)
  · rename_i hmode
    split
    · rename_i i hheld
      exact ((Keeps.rewriteChan hc (fun h => Channel.lawful_releaseQueue h hmode hheld)).trans
        (.raiseChannel ..)).trans (.answerOkay ..)
    all_goals exact .answerOkay ..

theorem keeping_nothing : WindowTake.keeping (fun _ _ _ _ _ t => t) :=
  fun _ _ _ _ _ s _ => .refl s

/-- A window access taken, refused or served. -/
theorem Keeps.takeWindow {kind : WindowKind} {p : Port} {f : WindowTake} (hf : f.keeping) {s t : State}
    (h : takeWindow kind p f s = some t) : Keeps s t := by
  unfold Machine.takeWindow at h
  split at h
  · split at h
    · cases h; exact .answerFault ..
    · rename_i ch hc
      split at h
      · split at h
        · cases h; exact .answerFault ..
        · split at h
          · cases h; exact .answerFault ..
          · split at h
            · cases h; exact .answerFault ..
            · split at h
              · cases h; exact .answerFault ..
              · cases h; exact hf _ _ _ _ _ _ hc
      · cases h
  · cases h

/-! ## Slots leaving use -/

theorem Keeps.answerWaiting (p : Port) (c : ChanId) (f : FaultCode) (s : State) : Keeps s (answerWaiting p c f s) := by
  unfold Machine.answerWaiting
  split
  · split
    · exact .answerFault ..
    · exact .refl s
  · exact .refl s

theorem Keeps.abandonEffects (c : ChanId) (ch : Channel) (s : State) : Keeps s (abandonEffects c ch s) :=
  ((Keeps.abortAtEngine ..).trans (.answerWaiting ..)).trans (.raiseChannel ..)

theorem Keeps.slotsLeave {s : State} {c : ChanId} {gone : List (Fin 8)} {ch : Channel}
    (hl : channelsLawful s → ch.lawful) : Keeps s (slotsLeave c gone ch s) := by
  have hended : channelsLawful s → (if ch.fillingLost gone then ch.fillingEnded else ch).lawful := by
    intro hs
    split
    · exact Channel.lawful_fillingEnded (hl hs)
    · exact hl hs
  unfold Machine.slotsLeave
  dsimp only
  generalize (if ch.fillingLost gone then ch.fillingEnded else ch) = ch1 at hended ⊢
  have hset : Keeps s (s.setChan c
      (some (if (gone.filter ch1.losesFrame).isEmpty then ch1 else ch1.loseFrames (gone.filter ch1.losesFrame)))) := by
    refine .setChan (fun hs x hx => ?_)
    cases hx
    split
    · exact hended hs
    · exact Channel.lawful_loseFrames (hended hs) (fun i hi => (List.mem_filter.1 hi).2)
  have habandon : ∀ u, Keeps u (if ch.fillingLost gone then Machine.abandonEffects c ch u else u) := by
    intro u
    split
    · exact .abandonEffects ..
    · exact .refl u
  generalize s.setChan c
    (some (if (gone.filter ch1.losesFrame).isEmpty then ch1 else ch1.loseFrames (gone.filter ch1.losesFrame))) = u
    at hset ⊢
  split
  · exact hset.trans (habandon _)
  · exact (hset.trans (habandon _)).trans (.raiseChannel ..)

theorem Keeps.takeLeaving {c : ChanId} {s t : State} (h : takeLeaving c s = some t) : Keeps s t := by
  unfold Machine.takeLeaving at h
  split at h
  · cases h
  · rename_i ch hc
    split at h
    · dsimp only at h
      split at h
      · cases h; exact .rewriteChan hc (fun h => by exact h)
      · cases h; exact .slotsLeave (fun hs => hs c ch hc)
    all_goals cases h

theorem Keeps.takeEntering {c : ChanId} {s t : State} (h : takeEntering c s = some t) : Keeps s t := by
  unfold Machine.takeEntering at h
  split at h
  · cases h
  · rename_i ch hc
    split at h
    · cases h; exact .rewriteChan hc (fun h => by exact h)
    all_goals cases h

/-! ## The copy engine -/

theorem Keeps.showNext (j : CopyJob) (s : State) : Keeps s (showNext j s) := by
  unfold Machine.showNext
  split
  · rename_i ch hc
    split
    · exact .rewriteChan hc (fun h => by exact h)
    · exact .refl s
  · exact .refl s

theorem Keeps.copyAdvance (j : CopyJob) (s : State) : Keeps s (copyAdvance j s) := by
  unfold Machine.copyAdvance
  dsimp only
  refine (Keeps.showNext { j with next := skipClaimed s j j.len j.next, flight := .none, word := none } s).trans ?_
  split
  · exact .setEngine ..
  · split <;> exact .setEngine ..

theorem Keeps.takeHead {s t : State} (h : takeHead s = some t) : Keeps s t := by
  unfold Machine.takeHead at h
  split at h
  · split at h
    · rename_i c rest _ _ _ ch hc
      split at h
      · cases h
        refine (Keeps.rewriteChan hc (ch' := { ch with copy := .copying 1 }) (fun h => by exact h)).trans ?_
        refine Keeps.trans (t := { s.setChan c (some { ch with copy := .copying 1 }) with
          copy := { s.copy with queue := rest, abortNotice := false } }) ⟨rfl, rfl, id, id, id, id, id⟩ ?_
        unfold beginCopy
        split
        · exact .copyAdvance ..
        · exact .setEngine ..
      · cases h
    · cases h
  · cases h

theorem Keeps.copyStore (j : CopyJob) (s : State) : Keeps s (copyStore j s) := by
  unfold Machine.copyStore
  split
  · split
    · exact .storePoison ..
    · exact .storeWord ..
  · exact .refl s

theorem Keeps.putCopyWrite (j : CopyJob) (w : CopiedWord) (s : State) : Keeps s (putCopyWrite j w s) := by
  unfold Machine.putCopyWrite
  dsimp only
  split <;> exact .setEngine ..

theorem Keeps.copyRun (j : CopyJob) (bud : Option Nat) (s : State) : Keeps s (copyRun j bud s).2 := by
  unfold Machine.copyRun
  split
  · exact .readAccess ..
  · split
    · exact .refl s
    · exact .copyStore ..
  all_goals exact .refl s

theorem Keeps.copyEnded {s t u : State} {out : ReadOut} (h : copyEnded s out t = some u) : Keeps t u := by
  unfold Machine.copyEnded at h
  split at h
  · split at h
    · cases h; exact .putCopyWrite ..
    · cases h; exact .copyAdvance ..
    · cases h
  · cases h; exact .engineIdle ..
  all_goals cases h

theorem Keeps.copyTimedOut {s t : State} (h : copyTimedOut s = some t) : Keeps s t := by
  unfold Machine.copyTimedOut at h
  split at h
  · split at h
    · cases h; exact .setEngine ..
    · cases h
  · split at h
    · cases h; exact .engineIdle ..
    · cases h
  all_goals cases h

theorem Keeps.copyOperationEnd {s t : State} (h : copyOperationEnd s = some t) : Keeps s t := by
  unfold Machine.copyOperationEnd at h
  split at h
  · split at h
    · exact ((Keeps.setBusy ..).trans (.copyRun ..)).trans (.copyEnded h)
    · cases h
  · exact .copyTimedOut h

theorem Keeps.completeWaiting {s : State} {c : ChanId} {ch : Channel} (hl : channelsLawful s → ch.lawful) :
    Keeps s (completeWaiting c ch s) := by
  have hset : Keeps s (s.setChan c (some ch)) := .setChan (fun hs x hx => by cases hx; exact hl hs)
  unfold Machine.completeWaiting
  split
  · rename_i hfill _ _
    split
    · exact .carryOutCommit hl hfill
    · exact hset
  · exact hset

theorem Keeps.takeCompletion {s t : State} (h : takeCompletion s = some t) : Keeps s t := by
  unfold Machine.takeCompletion at h
  split at h
  · split at h
    · rename_i ch hc
      split at h
      · cases h
        exact (Keeps.engineIdle s).trans (.completeWaiting (fun hs => Channel.lawful_copyEnded (hs _ ch hc)))
      · cases h; exact .engineIdle s
    · cases h; exact .engineIdle s
  all_goals cases h

theorem Keeps.takeFailure {s t : State} (h : takeFailure s = some t) : Keeps s t := by
  unfold Machine.takeFailure at h
  split at h
  · split at h
    · rename_i j _ _ ch hc
      split at h
      · cases h
        have hidle : (Machine.engineIdle s).chan j.channel = some ch := hc
        exact (((Keeps.engineIdle s).trans (.rewriteChan hidle Channel.lawful_fillingEnded)).trans
          (.answerWaiting ..)).trans (.raiseChannel ..)
      · cases h; exact .engineIdle s
    · cases h; exact .engineIdle s
  all_goals cases h

theorem Keeps.takeAbortNotice {s t : State} (h : takeAbortNotice s = some t) : Keeps s t := by
  unfold Machine.takeAbortNotice at h
  split at h
  · dsimp only at h
    split at h
    · split at h <;> cases h <;> exact ⟨rfl, rfl, id, id, id, id, id⟩
    all_goals cases h; exact ⟨rfl, rfl, id, id, id, id, id⟩
  · cases h

/-! ## The scrubber -/

theorem Keeps.scrubWrap (s : State) : Keeps s (scrubWrap s) := by
  unfold Machine.scrubWrap
  split
  · exact (Keeps.setScrub ..).trans (.raiseBoth ..)
  · exact .setScrub ..

theorem Keeps.scrubOnward (lo : Nat) (s : State) : Keeps s (scrubOnward lo s) := by
  unfold Machine.scrubOnward
  split
  · exact .setScrub ..
  · exact .scrubWrap s

theorem Keeps.scrubAdvance (b : BankId) (addr : Nat) (s : State) : Keeps s (scrubAdvance b addr s) := by
  unfold Machine.scrubAdvance
  split
  · split
    · exact .scrubOnward ..
    · exact .setScrub ..
  · exact .refl s

theorem Keeps.scrubDeparture (b : BankId) (s : State) : Keeps s (scrubDeparture b s) := by
  unfold Machine.scrubDeparture
  split
  · exact (Keeps.scrubOnward ..).trans (.setScrub ..)
  · exact .refl s

theorem Keeps.scrubReturn (b : BankId) (s : State) : Keeps s (scrubReturn b s) := by
  unfold Machine.scrubReturn
  split
  · exact .setScrub ..
  · exact .refl s

theorem Keeps.scrubResume (s : State) : Keeps s (scrubResume s) := by
  unfold Machine.scrubResume
  split
  · split
    · exact (Keeps.setScrub ..).trans (.endCommand ..)
    · exact .setScrub ..
  · exact .refl s

theorem Keeps.scrubReadEnded (b : BankId) (addr : Nat) (s : State) : Keeps s (scrubReadEnded b addr s) := by
  unfold Machine.scrubReadEnded
  split
  · exact .refl s
  · exact (Keeps.scrubAdvance ..).trans (.scrubResume _)

theorem Keeps.scrubReadEnd {s t : State} (h : scrubReadEnd s = some t) : Keeps s t := by
  unfold Machine.scrubReadEnd at h
  split at h
  · cases h
    exact ((Keeps.setBusy ..).trans (.readAccess ..)).trans (.scrubReadEnded ..)
  · split at h
    · split at h
      · cases h
        exact (Keeps.setScrub ..).trans (.scrubReadEnded ..)
      · cases h
    · cases h

theorem Keeps.scrubExpiry {s t : State} (h : scrubExpiry s = some t) : Keeps s t := by
  unfold Machine.scrubExpiry at h
  split at h
  · cases h; exact .setScrub ..
  · cases h

/-! ## Bank health -/

theorem Keeps.notifyChannels (b : BankId) (n : Notice) (s : State) : Keeps s (notifyChannels b n s) := by
  have h : Machine.notifyChannels b n s = { s with channels := s.channels.map (fun e => e.map (fun ch =>
      if (s.bank b).holdsSlots ch then { ch with notices := ch.notices ++ [n] } else ch)) } := by
    unfold Machine.notifyChannels
    congr 2
    funext e
    cases e with
    | none => rfl
    | some ch => simp only [Option.map_some]; split <;> rfl
  rw [h]
  refine .mapChannels _ (fun ch hl => ?_)
  split
  · exact hl
  · exact hl

theorem Keeps.withdrawPort (b : BankId) (p : Port) (s : State) : Keeps s (withdrawPort b p s) := by
  unfold Machine.withdrawPort
  split
  · split
    · exact .endPortOp ..
    · exact .refl s
  · exact .refl s

/-- A count set to 0 is bounded. -/
theorem Keeps.clearCopyPass (s : State) : Keeps s (clearCopyPass s) :=
  ⟨rfl, rfl, id, id, fun h => ⟨Nat.zero_le 8, h.2⟩, id, id⟩

theorem Keeps.clearMirrorPass (s : State) : Keeps s (clearMirrorPass s) :=
  ⟨rfl, rfl, id, id, fun h => ⟨h.1, Nat.zero_le 8⟩, id, id⟩

theorem Keeps.withdrawCopy (b : BankId) (s : State) : Keeps s (withdrawCopy b s) := by
  unfold Machine.withdrawCopy
  split
  · split
    · exact (Keeps.setEngine ..).trans (.clearCopyPass _)
    · exact .refl s
  · split
    · exact (Keeps.engineIdle s).trans (.clearCopyPass _)
    · exact .refl s
  all_goals exact .refl s

theorem Keeps.withdrawMirror (b : BankId) (s : State) : Keeps s (withdrawMirror b s) := by
  unfold Machine.withdrawMirror
  split
  · split
    · exact ((Keeps.setRequest ..).trans (.markDirty ..)).trans (.clearMirrorPass _)
    · exact .refl s
  all_goals exact .refl s

theorem Keeps.scrubberTakes {f : BankId → State → State} (hf : ∀ b s, Keeps s (f b s)) (b : BankId) (s : State) :
    Keeps s (scrubberTakes b f s) := by
  unfold Machine.scrubberTakes
  split
  · exact hf b s
  · exact .refl s

theorem Keeps.departureEffects (b : BankId) (s : State) : Keeps s (departureEffects b s) := by
  have hreports : Keeps s { s with stormReports := s.stormReports.filter (fun x => x != b) } :=
    ⟨rfl, rfl, id, id, id, id, id⟩
  exact (((((hreports.trans (.withdrawPort b .port0 _)).trans (.withdrawPort b .port1 _)).trans
    (.withdrawCopy b _)).trans (.withdrawMirror b _)).trans (.scrubberTakes Keeps.scrubDeparture b _)).trans
    (.notifyChannels ..)

theorem Keeps.departFenced (b : BankId) (cause : FaultCause) (s : State) : Keeps s (departFenced b cause s) :=
  ((Keeps.setBank ..).trans (.departureEffects ..)).trans (.raiseBoth ..)

theorem Keeps.departRetry (b : BankId) (period : Nat) (s : State) : Keeps s (departRetry b period s) :=
  ((Keeps.setBank ..).trans (.departureEffects ..)).trans (.raiseBoth ..)

theorem Keeps.timeoutFault (b : BankId) (s : State) : Keeps s (timeoutFault b s) := by
  unfold Machine.timeoutFault
  split
  · split
    · split
      · exact .departFenced ..
      all_goals exact .departRetry ..
    · exact .refl s
  · exact .refl s

theorem Keeps.timeoutReport {b : BankId} {s t : State} (h : timeoutReport b s = some t) : Keeps s t := by
  unfold Machine.timeoutReport at h
  split at h
  · cases h
    exact Keeps.trans (t := { s with timeoutReports := s.timeoutReports.erase b }) ⟨rfl, rfl, id, id, id, id, id⟩
      (.timeoutFault ..)
  · cases h

theorem Keeps.stormReport {b : BankId} {s t : State} (h : stormReport b s = some t) : Keeps s t := by
  unfold Machine.stormReport at h
  split at h
  · cases h
    refine Keeps.trans (t := { s with stormReports := s.stormReports.erase b }) ⟨rfl, rfl, id, id, id, id, id⟩ ?_
    split
    · exact .departFenced ..
    · exact .refl _
  · cases h

theorem Keeps.retryExpiry {b : BankId} {s t : State} (h : retryExpiry b s = some t) : Keeps s t := by
  unfold Machine.retryExpiry at h
  split at h
  · cases h; exact .setBank ..
  · cases h

theorem Keeps.probeRetry (b : BankId) (period : Nat) (rfull : Bool) (s : State) :
    Keeps s (probeRetry b period rfull s) :=
  (Keeps.setBank ..).trans (.raiseBoth ..)

theorem Keeps.probeFences (b : BankId) (s : State) : Keeps s (probeFences b s) :=
  (Keeps.setBank ..).trans (.raiseBoth ..)

theorem Keeps.probeFailed (b : BankId) (s : State) : Keeps s (probeFailed b s) := by
  unfold Machine.probeFailed
  split
  · split
    · exact .probeFences ..
    · exact .probeRetry ..
    · split
      · exact .probeFences ..
      · exact .probeRetry ..
  · exact .refl s

theorem Keeps.bankEnters (b : BankId) (s : State) : Keeps s (bankEnters b s) :=
  ((Keeps.setBank ..).trans (.scrubberTakes Keeps.scrubReturn ..)).trans (.notifyChannels ..)

theorem Keeps.probeCompleted (b : BankId) (s : State) : Keeps s (probeCompleted b s) := by
  unfold Machine.probeCompleted
  split
  · split
    · exact .bankEnters ..
    · exact .setProbe ..
  · exact .setProbe ..
  all_goals exact .refl s

theorem Keeps.probeOutcome {b : BankId} {s t : State} (h : probeOutcome b s = some t) : Keeps s t := by
  unfold Machine.probeOutcome at h
  split at h
  · split at h
    · cases h; exact (Keeps.setProbe ..).trans (.probeFailed ..)
    · cases h; exact .setProbe ..
  · cases h; exact .setProbe ..
  all_goals cases h

theorem Keeps.probeEnd {b : BankId} {s t : State} (h : probeEnd b s = some t) : Keeps s t := by
  unfold Machine.probeEnd at h
  split at h
  · split at h
    · cases h
      exact (((Keeps.setBusy ..).trans (.readAccess ..)).trans (.settle s _)).trans (.probeCompleted ..)
    · exact .probeOutcome h
  · exact .probeOutcome h

theorem Keeps.bankFence (b : BankId) (s : State) : Keeps s (bankFence b s).2 := by
  unfold Machine.bankFence
  split
  · exact .refl s
  · exact .refl s
  all_goals dsimp only
  · exact .departFenced ..
  all_goals exact (Keeps.setBank ..).trans (.raiseBoth ..)

theorem Keeps.bankReinstate (b : BankId) (s : State) : Keeps s (bankReinstate b s).2 := by
  unfold Machine.bankReinstate
  split
  · exact .bankEnters ..
  · exact .refl s

theorem Keeps.bankClearRetries (b : BankId) (s : State) : Keeps s (bankClearRetries b s).2 := by
  unfold Machine.bankClearRetries
  dsimp only
  split
  · exact .refl s
  · exact (Keeps.setBank ..).trans (.raiseBoth ..)
  all_goals exact .setBank ..

end Sys2Proof.Machine
end

section
/-! SUPPORT. What the steps of the arbiter, the ports, the control block, the executor and the loader keep, and with
them every step. -/

namespace Sys2Proof.Machine

open Sys2Proof

/-! ## The arbiter -/

theorem passedOver_le {waits : Bool} {n : Nat} (h : n ≤ 8) : passedOver waits n ≤ 8 := by
  unfold passedOver passLimit
  split <;> omega

theorem Keeps.grantPort (p : Port) (s : State) : Keeps s (grantPort p s) := by
  unfold Machine.grantPort
  split
  · exact ⟨rfl, rfl, id, id, fun h => ⟨passedOver_le h.1, passedOver_le h.2⟩, id, id⟩
  · exact .refl s

theorem Keeps.grantCopy (s : State) : Keeps s (grantCopy s) := by
  unfold Machine.grantCopy
  dsimp only
  refine (Keeps.clearCopyPass s).trans ?_
  split
  · split
    · exact .setEngine ..
    · split
      · exact .copyAdvance ..
      · exact (Keeps.setEngine ..).trans (.occupy ..)
  · exact .engineIdle _
  all_goals exact .refl _

theorem Keeps.grantMirror (s : State) : Keeps s (grantMirror s) := by
  unfold Machine.grantMirror
  split
  · exact ⟨rfl, rfl, id, fun h => ascending_erase _ h, fun h => ⟨h.1, Nat.zero_le 8⟩, id, id⟩
  · exact (Keeps.setRequest ..).trans (.clearMirrorPass _)

theorem Keeps.grantProbe (b : BankId) (s : State) : Keeps s (grantProbe b s) := by
  unfold Machine.grantProbe
  split
  · split
    · exact (Keeps.setProbe ..).trans (.occupy ..)
    · exact .setProbe ..
  · exact .setProbe ..

theorem Keeps.grantScrub (s : State) : Keeps s (grantScrub s) := by
  unfold Machine.grantScrub
  split
  · split
    · exact (Keeps.setScrub ..).trans (.occupy ..)
    · exact .refl s
  · exact .refl s

theorem Keeps.carryOut (x : Pick) (s : State) : Keeps s (carryOut x s) := by
  cases x with
  | probe b => exact .grantProbe b s
  | copy => exact .grantCopy s
  | mirror => exact .grantMirror s
  | port p => exact .grantPort p s
  | scrub => exact .grantScrub s

theorem Keeps.grantLoop : ∀ (n : Nat) (s : State), Keeps s (grantLoop n s) := by
  intro n
  induction n with
  | zero => exact .refl
  | succ n ih =>
    intro s
    unfold Machine.grantLoop
    split
    · exact .refl s
    · split
      · rename_i x _
        exact ((Keeps.carryOut x s).trans (.settle s _)).trans (ih _)
      · exact .refl s

theorem Keeps.dealNext (s : State) : Keeps s (dealNext s) := by
  unfold Machine.dealNext
  split
  · exact (Keeps.copyAdvance ..).trans (.settle s _)
  · exact .refl s

theorem Keeps.arbiterGrant {s t : State} (h : arbiterGrant s = some t) : Keeps s t := by
  unfold Machine.arbiterGrant at h
  split at h
  · cases h; exact (Keeps.dealNext s).trans (.grantLoop ..)
  · cases h

/-- During LOADING the dirty set is empty. -/
def dirtyQuiet (s : State) : Prop :=
  s.device = .loading → s.mirror.dirty = []

theorem dirtyQuiet_settle (s t : State) : dirtyQuiet (settle s t) :=
  fun h => dirty_settle_loading s t h

theorem dirtyQuiet_grantLoop : ∀ (n : Nat) (s : State), dirtyQuiet s → dirtyQuiet (grantLoop n s) := by
  intro n
  induction n with
  | zero => exact fun _ h => h
  | succ n ih =>
    intro s h
    unfold grantLoop
    split
    · exact h
    · split
      · exact ih _ (dirtyQuiet_settle _ _)
      · exact h

theorem dirtyQuiet_arbiterGrant {s t : State} (hs : dirtyQuiet s) (h : arbiterGrant s = some t) : dirtyQuiet t := by
  unfold arbiterGrant at h
  split at h
  · cases h
    refine dirtyQuiet_grantLoop _ _ ?_
    unfold dealNext
    split
    · exact dirtyQuiet_settle _ _
    · exact hs
  · cases h

theorem Keeps.timeoutEnds {op : BusyOp} {k : Nat} {s t : State} (h : timeoutEnds op k s = some t) : Keeps s t := by
  cases op with
  | port p =>
    simp only [Machine.timeoutEnds] at h
    split at h
    · split at h
      · cases h; exact (Keeps.portRun ..).trans (.endPortOp ..)
      · cases h
    · cases h
  | copy =>
    simp only [Machine.timeoutEnds] at h
    split at h
    · split at h
      · cases h; exact (Keeps.copyRun ..).trans (.setEngine ..)
      · cases h
    · split at h
      · cases h; exact (Keeps.copyRun ..).trans (.setEngine ..)
      · cases h
    all_goals cases h
  | mirror =>
    simp only [Machine.timeoutEnds] at h
    split at h
    · split at h
      · cases h; exact .setRequest ..
      · cases h
    all_goals cases h
  | scrub b addr =>
    simp only [Machine.timeoutEnds] at h
    split at h
    · cases h
      refine (Keeps.readAccess .scrub b addr (some k) s).trans ?_
      split
      · exact .refl _
      · exact .setScrub ..
    · cases h
  | probe b addr =>
    simp only [Machine.timeoutEnds] at h
    split at h
    · cases h
      refine (Keeps.readAccess .probe b addr (some k) s).trans ?_
      split
      · exact .setProbe ..
      · exact .refl _
    · cases h
  | initWrite b addr =>
    simp only [Machine.timeoutEnds] at h
    split at h
    · cases h; exact ⟨rfl, rfl, id, id, id, id, id⟩
    · cases h

theorem Keeps.readyTimeout {waits : List Nat} {s t : State} (h : readyTimeout waits s = some t) : Keeps s t := by
  unfold Machine.readyTimeout at h
  split at h
  · split at h
    · split at h
      · split at h
        · rename_i u hu
          cases h
          refine ((Keeps.setBusy s none).trans (.timeoutEnds hu)).trans ?_
          split
          · exact ⟨rfl, rfl, id, id, id, id, id⟩
          · exact .refl u
        · cases h
      · cases h
    · cases h
  · cases h

/-! ## The ports -/

theorem Keeps.handOn (p : Port) (a : Access) (d : Decoded) (s : State) : Keeps s (handOn p a d s) := by
  cases d with
  | refused f => exact .answerFault ..
  | bcbRead => exact .putWords ..
  | bcbWrite off => exact .putWords ..
  | window c off => exact .setPhase ..
  | memory => exact .putWords ..

theorem Keeps.admitPlain (p : Port) (a : Access) (s : State) : Keeps s (admitPlain p a s) := by
  unfold Machine.admitPlain
  split
  · exact .handOn ..
  · exact .answerFault ..

theorem Keeps.answerHalf (p : Port) (a : Access) (f : FaultCode) (s : State) : Keeps s (answerHalf p a f s) :=
  (Keeps.unlock s).trans (.giveAnswer ..)

theorem Keeps.performHalf (p : Port) (a : Access) (s : State) : Keeps s (performHalf p a s) := by
  unfold Machine.performHalf
  split
  · split
    · exact (Keeps.setPort ..).trans (.occupy ..)
    · exact .answerHalf ..
  · exact .answerHalf ..

theorem Keeps.admitHalf (p : Port) (a : Access) (s : State) : Keeps s (admitHalf p a s) := by
  unfold Machine.admitHalf
  split
  · exact .answerHalf ..
  · split
    case h_5 => exact .performHalf ..
    all_goals exact .answerHalf ..

theorem Keeps.admitLocked (p : Port) (a : Access) (addr : Nat) (s : State) : Keeps s (admitLocked p a addr s) := by
  unfold Machine.admitLocked
  split
  · exact .admitHalf ..
  · exact (Keeps.unlock s).trans (.answerFault ..)

theorem Keeps.admitAccess (p : Port) (a : Access) (s : State) : Keeps s (admitAccess p a s) := by
  unfold Machine.admitAccess
  split
  · split
    · exact .admitLocked ..
    · exact .admitPlain ..
  · exact .admitPlain ..

theorem Keeps.portAccess {p : Port} {a : Access} {s t : State} (h : portAccess p a s = some t) : Keeps s t := by
  have htake : Keeps s (takeAccess p a s) := .setPort ..
  unfold Machine.portAccess at h
  split at h
  · split at h
    · cases h; exact htake
    · cases h; exact htake.trans (.admitAccess ..)
  · cases h

theorem Keeps.portOperationEnd {p : Port} {s t : State} (h : portOperationEnd p s = some t) : Keeps s t := by
  unfold Machine.portOperationEnd at h
  split at h
  · split at h
    · cases h; exact ((Keeps.setBusy ..).trans (.portRun ..)).trans (.endPortOp ..)
    · cases h
  · cases h

theorem Keeps.dropWaiting (c : ChanId) (s : State) : Keeps s (dropWaiting c s) := by
  unfold Machine.dropWaiting
  split
  · rename_i ch hc
    exact .rewriteChan hc (fun h => by exact h)
  · exact .refl s

theorem Keeps.holdExpired {p : Port} {s t : State} (h : holdExpired p s = some t) : Keeps s t := by
  unfold Machine.holdExpired expire at h
  split at h
  · split at h
    case h_3 => cases h; exact (Keeps.dropWaiting ..).trans (.answerFault ..)
    case h_5 => cases h; exact (Keeps.answerFault ..).trans (.releaseKeptBack ..)
    all_goals cases h; try exact .answerFault ..
  · cases h

/-! ## Time -/

theorem Keeps.microsecondTick (s : State) : Keeps s (microsecondTick s) := by
  unfold Machine.microsecondTick
  dsimp only
  split
  · exact ⟨rfl, rfl, id, id, id, id, id⟩
  · rename_i hrun
    exact ⟨rfl, rfl, id, id, id, fun _ hl => absurd hl hrun, id⟩

theorem Keeps.millisecondAdvance {s t : State} (h : millisecondAdvance s = some t) : Keeps s t := by
  unfold Machine.millisecondAdvance at h
  split at h
  · rename_i hrun
    cases h
    refine (Keeps.mapChannels (s := s) Channel.advanced (fun ch hl => hl)).trans ?_
    exact ⟨rfl, rfl, id, id, id, fun _ hl => absurd hl hrun.1, id⟩
  · cases h

theorem Keeps.freshnessExpiry {c : ChanId} {s t : State} (h : freshnessExpiry c s = some t) : Keeps s t := by
  unfold Machine.freshnessExpiry at h
  split at h
  · rename_i ch hc
    split at h
    · cases h
      exact (Keeps.rewriteChan hc (fun h => by exact h)).trans (.raiseChannel ..)
    · cases h
  · cases h

theorem Keeps.zeroTime (s : State) : Keeps s (zeroTime s) :=
  Keeps.trans (t := { s with msCount := 0, usInMs := 0 })
    ⟨rfl, rfl, id, id, id, fun h hl => ⟨rfl, rfl, (h hl).2.2⟩, id⟩ (.markDirty ..)

/-! ## The control block -/

theorem Keeps.mirrorRequest {s t : State} (h : mirrorRequest s = some t) : Keeps s t := by
  unfold Machine.mirrorRequest at h
  split at h
  · obtain ⟨off, _, rfl⟩ := Option.map_eq_some_iff.1 h
    exact .setRequest ..
  · cases h

theorem Keeps.mirrorCompleted (w : MirrorWrite) (s : State) : Keeps s (mirrorCompleted w s) := by
  unfold Machine.mirrorCompleted
  dsimp only
  refine ((Keeps.setRequest s .none).trans (.storeWord w.bank w.addr w.value _)).trans ?_
  split
  · exact .postFlags ..
  · split
    · exact .refl _
    · exact .markDirty ..

theorem Keeps.mirrorWriteEnd {s t : State} (h : mirrorWriteEnd s = some t) : Keeps s t := by
  unfold Machine.mirrorWriteEnd at h
  split at h
  · split at h
    · cases h; exact (Keeps.setBusy ..).trans (.mirrorCompleted ..)
    · cases h
  · cases h; exact (Keeps.setRequest s .none).trans (.markDirty ..)
  all_goals cases h

theorem Keeps.takeHandover {p : Port} {mine : Nat → Bool} {effect : Nat → Word → State → State} {s t : State}
    (he : ∀ off v s, Keeps s (effect off v s)) (h : takeHandover p mine effect s = some t) : Keeps s t := by
  unfold Machine.takeHandover at h
  split at h
  · split at h
    · cases h; exact ((he ..).trans (.settle s _)).trans (.giveAnswer ..)
    · cases h
  · cases h

theorem Keeps.writeGlobalMask (off : Nat) (v : Word) (s : State) : Keeps s (writeGlobalMask off v s) :=
  Keeps.trans (t := { s with globalMask := s.globalMask.set (lineOf off 6) v }) ⟨rfl, rfl, id, id, id, id, id⟩
    (.markDirty ..)

theorem Keeps.writeChannelMask (off : Nat) (v : Word) (s : State) : Keeps s (writeChannelMask off v s) :=
  Keeps.trans (t := { s with channelMask := s.channelMask.set (lineOf off 8) v }) ⟨rfl, rfl, id, id, id, id, id⟩
    (.markDirty ..)

theorem Keeps.writeCaptureAck (off : Nat) (v : Word) (s : State) : Keeps s (writeCaptureAck off v s) := by
  have hempty : ∀ (b : Bool) (p : Port) (u : State), Keeps u (if b then emptyPortCapture p u else u) := by
    intro b p u
    cases b
    · exact .refl u
    · exact .setPort ..
  unfold Machine.writeCaptureAck
  dsimp only
  have hmem : ∀ u : State, Keeps u (if v.getLsbD 2 then { u with memCapture := u.memCapture.emptied } else u) := by
    intro u
    split
    · exact ⟨rfl, rfl, id, id, id, id, id⟩
    · exact .refl u
  exact ((hempty (v.getLsbD 0) .port0 s).trans (hempty (v.getLsbD 1) .port1 _)).trans (hmem _)

theorem Keeps.writeStaging (p : Port) (off : Nat) (v : Word) (s : State) : Keeps s (writeStaging p off v s) := by
  unfold Machine.writeStaging
  split
  · exact ⟨rfl, rfl, id, id, id, id, id⟩
  · exact .refl s

/-! ## The executor -/

/-- An owner that keeps the invariants. -/
def Owner.keeping (f : Owner) : Prop :=
  ∀ (p : Port) (w : Word) (s : State), Keeps s (f p w s).2

theorem Keeps.runCommand {codes : Nat → Bool} {owner : Owner} (ho : owner.keeping) {s t : State}
    (h : runCommand codes owner s = some t) : Keeps s t := by
  unfold Machine.runCommand at h
  split at h
  · cases h; exact ((Keeps.setCommand ..).trans (ho ..)).trans (.endCommand ..)
  · cases h

theorem keeping_withChannel {f : Port → Word → ChanId → State → CommandOutcome × State}
    (hf : ∀ p w c s, Keeps s (f p w c s).2) : Owner.keeping (withChannel f) := by
  intro p w s
  unfold withChannel
  split
  · exact hf ..
  · exact .refl s

theorem keeping_withBank {f : BankId → State → CommandOutcome × State} (hf : ∀ b s, Keeps s (f b s).2) :
    Owner.keeping (withBank f) := by
  intro p w s
  unfold withBank
  split
  · exact hf ..
  · exact .refl s

theorem Keeps.disableAt (c : ChanId) (ch : Channel) (s : State) : Keeps s (disableAt c ch s) :=
  ((Keeps.setChan (fun _ x hx => by cases hx; exact Channel.lawful_disabled ch)).trans (.abortAtEngine ..)).trans
    (.answerWaiting ..)

theorem Keeps.channelEnable (p : Port) (w : Word) (c : ChanId) (s : State) : Keeps s (channelEnable p w c s).2 := by
  unfold Machine.channelEnable
  split
  · split
    · exact .setChan (fun _ x hx => by cases hx; exact Channel.lawful_enabled ..)
    · exact .refl s
  · exact .refl s

theorem Keeps.channelDisable (p : Port) (w : Word) (c : ChanId) (s : State) : Keeps s (channelDisable p w c s).2 := by
  unfold Machine.channelDisable
  split
  · split
    · exact .refl s
    · exact .disableAt ..
  · exact .refl s

theorem Keeps.resetAt (c : ChanId) (ch : Channel) (s : State) : Keeps s (resetAt c ch s) :=
  (Keeps.setChan (fun _ x hx => by cases hx; exact Channel.lawful_disabled ch.disabled.countsCleared)).trans
    (.clearChannelFlags ..)

theorem Keeps.channelReset (p : Port) (w : Word) (c : ChanId) (s : State) : Keeps s (channelReset p w c s).2 := by
  unfold Machine.channelReset
  split
  · split
    · exact .refl s
    · exact (Keeps.disableAt ..).trans (.resetAt ..)
  · exact .refl s

theorem Keeps.channelLoad (p : Port) (w : Word) (c : ChanId) (s : State) : Keeps s (channelLoad p w c s).2 := by
  unfold Machine.channelLoad
  split
  · exact .refl s
  · dsimp only
    split
    · exact (Keeps.setChan (fun _ x hx => by cases hx; exact Channel.lawful_loaded ..)).trans (.clearChannelFlags ..)
    · exact .refl s

theorem Keeps.channelUnload (p : Port) (w : Word) (c : ChanId) (s : State) : Keeps s (channelUnload p w c s).2 := by
  unfold Machine.channelUnload
  split
  · split
    · exact ((Keeps.setChan (fun _ x hx => by cases hx)).trans (.clearChannelFlags ..)).trans (.markAll ..)
    · exact .refl s
  · exact .refl s

theorem Keeps.withSlot {f : ChanId → Channel → Fin 8 → State → CommandOutcome × State}
    (hf : ∀ c ch i s, s.chan c = some ch → Keeps s (f c ch i s).2) (p : Port) (w : Word) (c : ChanId) (s : State) :
    Keeps s (withSlot f p w c s).2 := by
  unfold Machine.withSlot
  split
  · rename_i ch hc
    split
    · exact hf c ch _ s hc
    · exact .refl s
  · exact .refl s

theorem Channel.lawful_retired {ch : Channel} (i : Fin 8) (b : Bool) (h : ch.lawful) :
    (ch.setSlot i { ch.slot i with retired := b }).lawful := by
  refine Channel.lawful_congr h (fun j => ?_) rfl rfl rfl rfl rfl
  rw [Channel.slot_setSlot]
  split
  · rename_i hj; rw [hj]
  · rfl

theorem Keeps.slotRetire {c : ChanId} {ch : Channel} {i : Fin 8} {s : State} (hc : s.chan c = some ch) :
    Keeps s (slotRetire c ch i s).2 := by
  unfold Machine.slotRetire
  split
  · exact .refl s
  · dsimp only
    split
    · exact .slotsLeave (fun hs => Channel.lawful_retired i true (hs c ch hc))
    · exact .rewriteChan hc (Channel.lawful_retired i true)

theorem Keeps.slotRestore {c : ChanId} {ch : Channel} {i : Fin 8} {s : State} (hc : s.chan c = some ch) :
    Keeps s (slotRestore c ch i s).2 := by
  unfold Machine.slotRestore
  split
  · exact .rewriteChan hc (Channel.lawful_retired i false)
  · exact .refl s

theorem keeping_scrubStart : Owner.keeping scrubStart := by
  intro p w s
  unfold scrubStart
  split
  · exact .setScrub ..
  · exact .refl s

theorem Keeps.scrubStop {s t : State} (h : scrubStop s = some t) : Keeps s t := by
  unfold Machine.scrubStop at h
  split at h
  · rename_i p w _
    dsimp only at h
    have hstart : Keeps s (startCommand p w s) := .setCommand ..
    split at h
    · cases h; exact hstart.trans (.endCommand ..)
    · cases h; exact hstart
    · cases h; exact (hstart.trans (.setScrub ..)).trans (.endCommand ..)
  · cases h

theorem keeping_countersClear : Owner.keeping countersClear := by
  intro p w s
  refine (Keeps.mapChannels (s := s) Channel.countsCleared (fun ch hl => hl)).trans ?_
  exact ⟨rfl, rfl, id, id, id, id, id⟩

theorem keeping_timeZero : Owner.keeping timeZero :=
  fun _ _ s => .zeroTime s

theorem keeping_unlisted : Owner.keeping unlisted :=
  fun _ _ s => .refl s

/-! ## The loader -/

theorem Keeps.reloadPort (p : Port) (s : State) : Keeps s (reloadPort p s) := by
  unfold Machine.reloadPort
  split
  iterate 4 exact .answerFault ..
  all_goals exact .refl s

theorem dirty_reloadMirror (m : Mirror) : (reloadMirror m).dirty = [] := by
  unfold reloadMirror
  split <;> rfl

/-- RELOAD stops the time, closes the lock and discards the run-time state of every channel. -/
theorem Keeps.reloadBlocks (s : State) : Keeps s (reloadBlocks s) := by
  have hch := (Keeps.mapChannels (s := s) reloadChannel (fun ch _ => Channel.lawful_loaded ch.config ch.bankUp)).channels
  refine ⟨rfl, rfl, id, fun _ => ?_, fun _ => ⟨Nat.zero_le 8, Nat.zero_le 8⟩, fun _ _ => ⟨rfl, rfl, rfl⟩, hch⟩
  change ascending (reloadMirror s.mirror).dirty
  rw [dirty_reloadMirror]
  trivial

theorem Keeps.reloadCommand {s t : State} (h : reloadCommand s = some t) : Keeps s t := by
  unfold Machine.reloadCommand at h
  split at h
  · rename_i p w _
    cases h
    have hstart : Keeps s (startCommand p w s) := .setCommand ..
    refine (hstart.trans (.reloadBlocks _)).trans ?_
    have hhold : ∀ u, Keeps u (defaultHold u) := fun u => ⟨rfl, rfl, id, id, id, id, id⟩
    exact ((hhold _).trans (.reloadPort ..)).trans (.reloadPort ..)
  · cases h

theorem Keeps.setLoader (s : State) (x : Loader) : Keeps s { s with loader := x } :=
  ⟨rfl, rfl, id, id, id, id, id⟩

theorem Keeps.imageReadEnd {bytes : List Byte} {s t : State} (h : imageReadEnd bytes s = some t) : Keeps s t := by
  unfold Machine.imageReadEnd at h
  split at h
  · cases h; exact .setLoader ..
  · cases h

theorem ascending_range' : ∀ (n a : Nat), ascending (List.range' a n) := by
  intro n
  induction n with
  | zero => exact fun _ => trivial
  | succ n ih =>
    intro a
    rw [List.range'_succ]
    refine ⟨fun y hy => ?_, ih (a + 1)⟩
    have := List.mem_range'_1.1 hy
    omega

theorem ascending_of_eq_allOffsets {l : List Nat} (h : l = allOffsets) : ascending l := by
  rw [h, allOffsets, List.range_eq_range']
  exact ascending_range' 1024 0

theorem dirty_freshBlocks (dev : Device) (why : LoadOutcome) (c : ChanId) (s : State) :
    (freshBlocks dev why c s).mirror.dirty = allOffsets := by
  simp only [freshBlocks]

theorem dirtySetOrdered_of_eq_freshBlocks {dev : Device} {why : LoadOutcome} {c : ChanId} {s u : State}
    (hu : freshBlocks dev why c s = u) : dirtySetOrdered u :=
  ascending_of_eq_allOffsets (hu ▸ dirty_freshBlocks dev why c s)

/-- LOADING has ended: in RUN and FALLBACK time may move. -/
theorem Keeps.freshBlocks {dev : Device} (hdev : dev ≠ .loading) (why : LoadOutcome) (c : ChanId) (s : State) :
    Keeps s (freshBlocks dev why c s) := by
  have hch := (Keeps.mapChannels (s := s) (startChannel s) (fun ch hl => by
    unfold startChannel
    split
    · exact Channel.lawful_enabled ..
    · exact hl)).channels
  generalize hu : Machine.freshBlocks dev why c s = u
  have hset : dirtySetOrdered u := dirtySetOrdered_of_eq_freshBlocks hu
  refine ⟨hu ▸ rfl, hu ▸ rfl, fun h => hu ▸ h, fun _ => hset, ?_, ?_, ?_⟩ <;> subst hu
  · exact fun _ => ⟨Nat.zero_le 8, Nat.zero_le 8⟩
  · exact fun _ hl => absurd hl hdev
  · exact hch

theorem Keeps.finishHandover (p : Port) (s : State) : Keeps s (finishHandover p s) := by
  unfold Machine.finishHandover
  split
  · exact .giveAnswer ..
  · exact .refl s

theorem Keeps.raiseIssuer (issuer : Option (Port × Word)) (s : State) : Keeps s (raiseIssuer issuer s) := by
  unfold Machine.raiseIssuer
  split
  · exact .raiseGlobal ..
  · exact .refl s

theorem Keeps.raiseFallback (dev : Device) (s : State) : Keeps s (raiseFallback dev s) := by
  cases dev with
  | loading => exact .refl s
  | run => exact .refl s
  | fallback => exact .raiseBoth ..

theorem Keeps.admitHeld (p : Port) (s : State) : Keeps s (admitHeld p s) := by
  unfold Machine.admitHeld
  split
  · exact .admitAccess ..
  · exact .refl s

theorem Keeps.endLoading {dev : Device} (hdev : dev ≠ .loading) (why : LoadOutcome) (c : ChanId) (s : State) :
    Keeps s (endLoading dev why c s) :=
  (((((((Keeps.finishHandover ..).trans (.finishHandover ..)).trans (.freshBlocks hdev why c _)).trans
    (.raiseIssuer ..)).trans (.raiseFallback ..)).trans (.foldl (fun s b => .timeoutFault b s) _ _)).trans
    (.admitHeld ..)).trans (.admitHeld ..)

theorem Keeps.applySettings (img : Image) (s : State) : Keeps s (applySettings img s) := by
  refine ⟨rfl, rfl, id, id, id, id, fun _ c ch hc => ?_⟩
  have he : (Machine.applySettings img s).chan c = (img.channels.get c).map (fun x => Channel.loaded x true) :=
    vector_get_map _ img.channels c
  rw [he] at hc
  obtain ⟨cfg, _, rfl⟩ := Option.map_eq_some_iff.1 hc
  exact Channel.lawful_loaded cfg true

theorem Keeps.startInit (b : BankId) (addr : Nat) (s : State) : Keeps s (startInit b addr s) :=
  ⟨rfl, rfl, id, id, id, id, id⟩

theorem Keeps.initFrom (n : Nat) (s : State) : Keeps s (initFrom n s) := by
  unfold Machine.initFrom
  split
  · exact .startInit ..
  · exact .endLoading (by decide) _ _ _

theorem Keeps.applyImage {s t : State} (h : applyImage s = some t) : Keeps s t := by
  unfold Machine.applyImage at h
  split at h
  · split at h
    · cases h; exact (Keeps.applySettings ..).trans (.initFrom ..)
    · cases h
  · cases h

theorem Keeps.fallbackApply {s t : State} (h : fallbackApply s = some t) : Keeps s t := by
  unfold Machine.fallbackApply at h
  split at h
  · split at h
    · cases h; exact (Keeps.applySettings ..).trans (.endLoading (by decide) ..)
    · cases h
  · cases h

theorem Keeps.initWriteEnd {s t : State} (h : initWriteEnd s = some t) : Keeps s t := by
  unfold Machine.initWriteEnd at h
  split at h
  · split at h
    · rename_i b addr _ _
      cases h
      refine ((Keeps.setBusy s none).trans (.storeWord b addr 0 _)).trans ?_
      unfold afterInit
      split
      · exact .initFrom ..
      · exact .startInit ..
    · split at h
      · cases h; exact .initFrom ..
      · cases h
  · cases h

/-! ## Every step -/

/-- Every command but the two of the pin reset and the grant is an event that keeps the invariants. -/
theorem exec_eq_event (c : Instr) (s : State) (h1 : c ≠ .pinReset) (h2 : c ≠ .pinResetRelease) (h3 : c ≠ .arbiterGrant) :
    ∃ f, exec c s = .next (event s f) ∧ ∀ t, f s = some t → Keeps s t := by
  cases c with
  | pinReset => exact absurd rfl h1
  | pinResetRelease => exact absurd rfl h2
  | arbiterGrant => exact absurd rfl h3
  | microsecondTick => exact ⟨_, rfl, fun t h => by cases h; exact .microsecondTick s⟩
  | millisecondAdvance => exact ⟨_, rfl, fun _ => .millisecondAdvance⟩
  | portAccess p a => exact ⟨_, rfl, fun _ => .portAccess⟩
  | writerDataWrite p => exact ⟨_, rfl, fun _ => .takeWindow keeping_takeDataWrite⟩
  | writerDataRead p => exact ⟨_, rfl, fun _ => .takeWindow keeping_takeWriterRead⟩
  | writerTagRead p => exact ⟨_, rfl, fun _ => .takeWindow keeping_takeWriterTagRead⟩
  | commit p => exact ⟨_, rfl, fun _ => .takeWindow keeping_takeCommit⟩
  | discard p => exact ⟨_, rfl, fun _ => .takeWindow keeping_takeDiscard⟩
  | readerTagRead p => exact ⟨_, rfl, fun _ => .takeWindow keeping_takeReaderTagRead⟩
  | readerDataRead p => exact ⟨_, rfl, fun _ => .takeWindow keeping_takeReaderDataRead⟩
  | release p => exact ⟨_, rfl, fun _ => .takeWindow keeping_takeRelease⟩
  | readerDataWrite p => exact ⟨_, rfl, fun _ => .takeWindow keeping_nothing⟩
  | portOperationEnd p => exact ⟨_, rfl, fun _ => .portOperationEnd⟩
  | readyTimeout waits => exact ⟨_, rfl, fun _ => .readyTimeout⟩
  | holdExpired p => exact ⟨_, rfl, fun _ => .holdExpired⟩
  | freshnessExpiry c => exact ⟨_, rfl, fun _ => .freshnessExpiry⟩
  | copyTakeHead => exact ⟨_, rfl, fun _ => .takeHead⟩
  | copyOperationEnd => exact ⟨_, rfl, fun _ => .copyOperationEnd⟩
  | copyCompletion => exact ⟨_, rfl, fun _ => .takeCompletion⟩
  | copyFailure => exact ⟨_, rfl, fun _ => .takeFailure⟩
  | copyAbortNotice => exact ⟨_, rfl, fun _ => .takeAbortNotice⟩
  | mirrorWriteRequest => exact ⟨_, rfl, fun _ => .mirrorRequest⟩
  | mirrorWriteEnd => exact ⟨_, rfl, fun _ => .mirrorWriteEnd⟩
  | scrubIntervalExpiry => exact ⟨_, rfl, fun _ => .scrubExpiry⟩
  | scrubReadEnd => exact ⟨_, rfl, fun _ => .scrubReadEnd⟩
  | timeoutReport b => exact ⟨_, rfl, fun _ => .timeoutReport⟩
  | storm b => exact ⟨_, rfl, fun _ => .stormReport⟩
  | retryTimerExpiry b => exact ⟨_, rfl, fun _ => .retryExpiry⟩
  | probeEnd b => exact ⟨_, rfl, fun _ => .probeEnd⟩
  | leavingNotice c => exact ⟨_, rfl, fun _ => .takeLeaving⟩
  | enteringNotice c => exact ⟨_, rfl, fun _ => .takeEntering⟩
  | channelEnable => exact ⟨_, rfl, fun _ => .runCommand (keeping_withChannel Keeps.channelEnable)⟩
  | channelDisable => exact ⟨_, rfl, fun _ => .runCommand (keeping_withChannel Keeps.channelDisable)⟩
  | channelReset => exact ⟨_, rfl, fun _ => .runCommand (keeping_withChannel Keeps.channelReset)⟩
  | channelLoad => exact ⟨_, rfl, fun _ => .runCommand (keeping_withChannel Keeps.channelLoad)⟩
  | channelUnload => exact ⟨_, rfl, fun _ => .runCommand (keeping_withChannel Keeps.channelUnload)⟩
  | slotRetire =>
    exact ⟨_, rfl, fun _ => .runCommand (keeping_withChannel (Keeps.withSlot (fun _ _ _ _ => Keeps.slotRetire)))⟩
  | slotRestore =>
    exact ⟨_, rfl, fun _ => .runCommand (keeping_withChannel (Keeps.withSlot (fun _ _ _ _ => Keeps.slotRestore)))⟩
  | bankReinstate => exact ⟨_, rfl, fun _ => .runCommand (keeping_withBank Keeps.bankReinstate)⟩
  | bankClearRetries => exact ⟨_, rfl, fun _ => .runCommand (keeping_withBank Keeps.bankClearRetries)⟩
  | bankFence => exact ⟨_, rfl, fun _ => .runCommand (keeping_withBank Keeps.bankFence)⟩
  | scrubStart => exact ⟨_, rfl, fun _ => .runCommand keeping_scrubStart⟩
  | scrubStop => exact ⟨_, rfl, fun _ => .scrubStop⟩
  | countersClear => exact ⟨_, rfl, fun _ => .runCommand keeping_countersClear⟩
  | timeZero => exact ⟨_, rfl, fun _ => .runCommand keeping_timeZero⟩
  | unlistedCommandCode => exact ⟨_, rfl, fun _ => .runCommand keeping_unlisted⟩
  | reload => exact ⟨_, rfl, fun _ => .reloadCommand⟩
  | globalMaskWrite p => exact ⟨_, rfl, fun _ => .takeHandover Keeps.writeGlobalMask⟩
  | channelMaskWrite p => exact ⟨_, rfl, fun _ => .takeHandover Keeps.writeChannelMask⟩
  | globalAck p => exact ⟨_, rfl, fun _ => .takeHandover (fun _ _ _ => .ackGlobal ..)⟩
  | channelAck p => exact ⟨_, rfl, fun _ => .takeHandover (fun _ _ _ => .ackChannel ..)⟩
  | captureAck p => exact ⟨_, rfl, fun _ => .takeHandover Keeps.writeCaptureAck⟩
  | stagingWrite p => exact ⟨_, rfl, fun _ => .takeHandover (Keeps.writeStaging p)⟩
  | imageReadEnd bytes => exact ⟨_, rfl, fun _ => .imageReadEnd⟩
  | applyImage => exact ⟨_, rfl, fun _ => .applyImage⟩
  | fallbackApply => exact ⟨_, rfl, fun _ => .fallbackApply⟩
  | initWriteEnd => exact ⟨_, rfl, fun _ => .initWriteEnd⟩

/-- What a step of any command is: the pin reset, its release, nothing, or a state that keeps the invariants and, during
LOADING, an empty dirty set. -/
theorem exec_cases (c : Instr) (s : State) :
    exec c s = .next s ∨ (c = .pinReset ∧ exec c s = .next (pinResetState s))
      ∨ (c = .pinResetRelease ∧ exec c s = .next (pinReleaseState s))
      ∨ (c = .arbiterGrant ∧ s.pinAsserted = false ∧ ∃ t, arbiterGrant s = some t ∧ exec c s = .next t)
      ∨ (s.pinAsserted = false ∧ ∃ t, Keeps s t ∧ exec c s = .next (settle s t)) := by
  by_cases h1 : c = .pinReset
  · subst h1; exact .inr (.inl ⟨rfl, rfl⟩)
  by_cases h2 : c = .pinResetRelease
  · subst h2; exact .inr (.inr (.inl ⟨rfl, rfl⟩))
  by_cases h3 : c = .arbiterGrant
  · subst h3
    cases hpin : s.pinAsserted with
    | true => exact .inl (by change Host.Outcome.next (if s.pinAsserted then s else _) = _; rw [hpin]; rfl)
    | false =>
      cases hg : arbiterGrant s with
      | none => exact .inl (by change Host.Outcome.next (if s.pinAsserted then s else _) = _; rw [hpin, hg]; rfl)
      | some t => exact .inr (.inr (.inr (.inl ⟨rfl, rfl, t, rfl, execArbiterGrant_of_some hpin hg⟩)))
  obtain ⟨f, he, hk⟩ := exec_eq_event c s h1 h2 h3
  rcases event_cases s f with h | ⟨t, hpin, hf, h⟩
  · exact .inl (by rw [he, h])
  · exact .inr (.inr (.inr (.inr ⟨hpin, t, hk t hf, by rw [he, h]⟩)))

end Sys2Proof.Machine
end

section
/-! PROOF. The invariants that every step keeps, and the marking of changed words. -/

namespace Sys2Proof.Machine

open Sys2Proof

/-! ## The pin reset -/

theorem pending_pinReleaseState (s : State) : (pinReleaseState s).pending = s.pending := by
  unfold pinReleaseState
  split <;> rfl

theorem canonical_cutOperation {op : BusyOp} {bud : Option Nat} {s : State} (h : memoryCanonical s) :
    memoryCanonical (cutOperation op bud s) := by
  cases op with
  | port p =>
    simp only [cutOperation]
    split
    · exact (Keeps.portRun ..).memory h
    · exact h
  | copy =>
    simp only [cutOperation]
    split
    · exact (Keeps.copyRun ..).memory h
    · exact h
  | mirror =>
    simp only [cutOperation]
    split
    · split
      · exact canonical_storeWord h
      · exact h
    · exact h
  | scrub b addr => exact (Keeps.readAccess ..).memory h
  | probe b addr => exact (Keeps.readAccess ..).memory h
  | initWrite b addr =>
    simp only [cutOperation]
    split
    · exact canonical_storeWord h
    · exact h

/-- The memory survives the cut in canonical form. -/
theorem canonical_pinResetState {s : State} (h : memoryCanonical s) : memoryCanonical (pinResetState s) := by
  change memoryCanonical (cutOff s)
  unfold cutOff
  split
  · exact canonical_cutOperation (s := s) h
  · exact h

/-- The release changes no field an invariant speaks of, but for the pin and the device. -/
theorem pinReleaseState_of_asserted {s : State} (h : s.pinAsserted = true) :
    pinReleaseState s =
      { s with pinAsserted := false, device := .loading, resetCause := .pin, loader := .fresh .reading } := by
  unfold pinReleaseState
  rw [if_pos h]

theorem pinReleaseState_of_not_asserted {s : State} (h : s.pinAsserted = false) : pinReleaseState s = s := by
  unfold pinReleaseState
  rw [h]
  rfl

theorem channelsLawful_pinResetState (s : State) : channelsLawful (pinResetState s) := by
  intro c ch hc
  have hnone : (pinResetState s).chan c = none := vector_get_replicate none c
  rw [hnone] at hc
  cases hc

/-! ## A property every step keeps -/

/-- A property of states that does not look at the queue is kept by `step` when each command keeps it. -/
theorem step_keeps {P : State → Prop} (hqueue : ∀ (s : State) (q : List Instr), P s → P { s with pending := q })
    (hexec : ∀ (c : Instr) (s t : State), P s → exec c s = .next t → P t) {s t : State} (hs : P s)
    (ht : step s = .next t) : P t := by
  cases hp : s.pending with
  | nil =>
    rw [step_of_nil hp] at ht
    cases ht
    exact hs
  | cons c rest =>
    rw [step_of_cons hp] at ht
    exact hexec c _ t (hqueue s rest hs) ht

/-- A property is kept by every command when the pin reset, its release, an operation that keeps the invariants, and a
settling keep it. -/
theorem exec_keeps {P : State → Prop} (hreset : ∀ s, P s → P (pinResetState s))
    (hrelease : ∀ s, P s → P (pinReleaseState s)) (hkeep : ∀ s t, Keeps s t → P s → P t)
    (c : Instr) (s t : State) (hs : P s) (h : exec c s = .next t) : P t := by
  rcases exec_cases c s with he | ⟨_, he⟩ | ⟨_, he⟩ | ⟨_, _, u, hg, he⟩ | ⟨_, u, hk, he⟩ <;> rw [he] at h <;> cases h
  · exact hs
  · exact hreset s hs
  · exact hrelease s hs
  · exact hkeep s _ (.arbiterGrant hg) hs
  · exact hkeep s _ (hk.trans (.settle s _)) hs

theorem exec_keeps_loadingQuiet (c : Instr) (s t : State) (hs : loadingQuiet s) (h : exec c s = .next t) :
    loadingQuiet t := by
  obtain ⟨hpin, hquiet⟩ := hs
  have hstill : loadingStill s := fun hl =>
    have ⟨hms, hus, hlock, _⟩ := hquiet hl
    ⟨hms, hus, hlock⟩
  have hset : dirtyQuiet s := fun hl => (hquiet hl).2.2.2
  have hkept : ∀ u, s.pinAsserted = false → Keeps s u → dirtyQuiet u → loadingQuiet u := by
    intro u hp hk hu
    refine ⟨fun hpu => ?_, fun hl => ?_⟩
    · rw [hk.pin, hp] at hpu
      cases hpu
    · have ⟨hms, hus, hlock⟩ := hk.still hstill hl
      exact ⟨hms, hus, hlock, hu hl⟩
  rcases exec_cases c s with he | ⟨_, he⟩ | ⟨_, he⟩ | ⟨_, hp, u, hg, he⟩ | ⟨hp, u, hk, he⟩ <;> rw [he] at h <;> cases h
  · exact ⟨hpin, hquiet⟩
  · exact ⟨fun _ => rfl, fun _ => ⟨rfl, rfl, rfl, rfl⟩⟩
  · cases hp : s.pinAsserted with
    | true =>
      rw [pinReleaseState_of_asserted hp]
      exact ⟨fun _ => rfl, fun _ => hquiet (hpin hp)⟩
    | false =>
      rw [pinReleaseState_of_not_asserted hp]
      exact ⟨hpin, hquiet⟩
  · exact hkept _ hp (.arbiterGrant hg) (dirtyQuiet_arbiterGrant hset hg)
  · exact hkept _ hp (hk.trans (.settle s _)) (dirtyQuiet_settle s _)

/-! ## Words changed by a grant -/

/-- A change of a shown value that has been marked, or is on its way to the memory in the mirror write in flight. -/
def changesAccounted (s u : State) : Prop :=
  ∀ off, mirrorWord s off ≠ mirrorWord u off →
    off ∈ u.mirror.dirty ∨ ∃ w, u.mirror.request = .inFlight w ∧ w.off = off ∧ w.value = mirrorWord u off

/-- A grant to anyone but the mirror writer leaves the mirror writer's record; every grant leaves the device. -/
theorem grantCopy_leaves (s : State) : (grantCopy s).mirror = s.mirror ∧ (grantCopy s).device = s.device := by
  unfold grantCopy
  dsimp only
  split
  · split
    · exact ⟨rfl, rfl⟩
    · split
      · rename_i j _ _ _
        obtain ⟨c, e, h⟩ := copyAdvance_touches { j with next := j.next + 1 } (clearCopyPass s)
        rw [copyNext, h]
        exact ⟨rfl, rfl⟩
      · exact ⟨rfl, rfl⟩
  all_goals exact ⟨rfl, rfl⟩

theorem grantPort_leaves (p : Port) (s : State) :
    (grantPort p s).mirror = s.mirror ∧ (grantPort p s).device = s.device := by
  unfold grantPort
  split <;> exact ⟨rfl, rfl⟩

theorem grantProbe_leaves (b : BankId) (s : State) :
    (grantProbe b s).mirror = s.mirror ∧ (grantProbe b s).device = s.device := by
  unfold grantProbe
  split
  · split <;> exact ⟨rfl, rfl⟩
  · exact ⟨rfl, rfl⟩

theorem grantScrub_leaves (s : State) : (grantScrub s).mirror = s.mirror ∧ (grantScrub s).device = s.device := by
  unfold grantScrub
  split
  · split <;> exact ⟨rfl, rfl⟩
  · exact ⟨rfl, rfl⟩

theorem device_grantMirror (s : State) : (grantMirror s).device = s.device := by
  unfold grantMirror
  split <;> rfl

theorem device_carryOut (x : Pick) (s : State) : (carryOut x s).device = s.device := by
  cases x with
  | probe b => exact (grantProbe_leaves b s).2
  | copy => exact (grantCopy_leaves s).2
  | mirror => exact device_grantMirror s
  | port p => exact (grantPort_leaves p s).2
  | scrub => exact (grantScrub_leaves s).2

theorem mirror_carryOut {x : Pick} (hx : x ≠ .mirror) (s : State) : (carryOut x s).mirror = s.mirror := by
  cases x with
  | probe b => exact (grantProbe_leaves b s).1
  | copy => exact (grantCopy_leaves s).1
  | mirror => exact absurd rfl hx
  | port p => exact (grantPort_leaves p s).1
  | scrub => exact (grantScrub_leaves s).1

/-- The mirror writer is granted only with a request that waits. -/
theorem waiting_of_pick_mirror {s : State} (h : pick s = some .mirror) : ∃ off, s.mirror.request = .waiting off := by
  have hw : s.mirrorWaits = true := by
    unfold pick pickPort at h
    grind
  unfold State.mirrorWaits at hw
  split at hw
  · exact ⟨_, by assumption⟩
  all_goals cases hw

/-- What one operation between two settlings leaves of the accounts of the state before. -/
theorem changesAccounted_settle {s u v : State} (hrun : v.device ≠ .loading) (h : changesAccounted s u)
    (hstep : ∀ off, mirrorWord u off = mirrorWord v off →
      (off ∈ u.mirror.dirty ∨ ∃ w, u.mirror.request = .inFlight w ∧ w.off = off ∧ w.value = mirrorWord u off) →
      off ∈ v.mirror.dirty ∨ ∃ w, v.mirror.request = .inFlight w ∧ w.off = off ∧ w.value = mirrorWord v off) :
    changesAccounted s (settle u v) := by
  intro off hoff
  rw [mirrorWord_settle] at hoff
  by_cases huv : mirrorWord u off = mirrorWord v off
  · rcases hstep off huv (h off (by rwa [huv])) with hd | hw
    · exact .inl ((mem_dirty_settle u v off hrun).2 (.inr hd))
    · exact .inr hw
  · exact .inl (changed_mem_dirty_settle u v off hrun huv)

theorem changesAccounted_carryOut {s u : State} {x : Pick} (hrun : u.device ≠ .loading) (hx : pick u = some x)
    (h : changesAccounted s u) : changesAccounted s (settle u (carryOut x u)) := by
  have hdev : (carryOut x u).device ≠ .loading := by rwa [device_carryOut]
  refine changesAccounted_settle hdev h (fun off huv hacc => ?_)
  by_cases hm : x = .mirror
  · subst hm
    obtain ⟨off', hreq⟩ := waiting_of_pick_mirror hx
    have hd : off ∈ u.mirror.dirty := hacc.resolve_right (fun ⟨w, hw, _⟩ => by rw [hreq] at hw; cases hw)
    change off ∈ (grantMirror u).mirror.dirty ∨ _
    cases hb : u.bcbBank with
    | none =>
      refine .inl ?_
      simp only [grantMirror, hreq, hb]
      exact hd
    | some b =>
      by_cases ho : off = off'
      · subst ho
        refine .inr ⟨⟨off, b, u.bcbBase + 4 * off, mirrorWord u off, pendingBits u off⟩, ?_, rfl, huv⟩
        simp only [carryOut, grantMirror, hreq, hb]
        rfl
      · refine .inl ?_
        simp only [grantMirror, hreq, hb]
        exact (List.mem_erase_of_ne ho).2 hd
  · rw [mirror_carryOut hm, ← huv]
    exact hacc

theorem changesAccounted_grantLoop {s : State} : ∀ (n : Nat) (u : State), u.device ≠ .loading → changesAccounted s u →
    changesAccounted s (grantLoop n u) := by
  intro n
  induction n with
  | zero => exact fun _ _ h => h
  | succ n ih =>
    intro u hrun h
    unfold grantLoop
    split
    · exact h
    · split
      · rename_i x hx
        exact ih _ (by rwa [device_settle, device_carryOut]) (changesAccounted_carryOut hrun hx h)
      · exact h

theorem device_grantLoop : ∀ (n : Nat) (u : State), (grantLoop n u).device = u.device := by
  intro n
  induction n with
  | zero => exact fun _ => rfl
  | succ n ih =>
    intro u
    unfold grantLoop
    split
    · rfl
    · split
      · rw [ih, device_settle, device_carryOut]
      · rfl

theorem device_copyAdvance (j : CopyJob) (s : State) : (copyAdvance j s).device = s.device := by
  obtain ⟨c, e, h⟩ := copyAdvance_touches j s
  rw [h]

theorem device_dealNext (s : State) : (dealNext s).device = s.device := by
  unfold dealNext
  split
  · rw [device_settle, device_copyAdvance]
  · rfl

theorem changesAccounted_arbiterGrant {s t : State} (h : arbiterGrant s = some t) (hrun : t.device ≠ .loading) :
    changesAccounted s t := by
  unfold arbiterGrant at h
  split at h
  · cases h
    rw [device_grantLoop] at hrun
    refine changesAccounted_grantLoop 8 _ hrun ?_
    rw [device_dealNext] at hrun
    unfold dealNext
    split
    · rename_i j _
      exact fun off hoff => .inl (changed_mem_dirty_settle s _ off (by rwa [device_copyAdvance]) hoff)
    · exact fun _ hoff => absurd rfl hoff
  · cases h

end Sys2Proof.Machine

namespace Sys2Proof.Proofs

open Sys2Proof Sys2Proof.Machine

/-- Settles O6: by `Keeps.memory`, and for the pin reset by the cut of the operation in progress. -/
theorem memoryStaysCanonical : Obligations.MemoryStaysCanonical := by
  refine fun s t hs ht => step_keeps (P := memoryCanonical) (fun _ _ h => h)
    (exec_keeps (fun _ => canonical_pinResetState) (fun s h => ?_) (fun _ _ hk => hk.memory)) hs ht
  unfold pinReleaseState
  split <;> exact h

/-- Settles O7: the three invariants along `Keeps`; that the dirty set is empty during LOADING comes from the settling
at the end of each step. -/
theorem controlStaysBounded : Obligations.ControlStaysBounded := by
  refine ⟨fun s t hs ht => ?_, fun s t hs ht => ?_, fun s t hs ht => ?_⟩
  · refine step_keeps (P := dirtySetOrdered) (fun _ _ h => h)
      (exec_keeps (fun _ _ => trivial) (fun s h => ?_) (fun _ _ hk => hk.dirty)) hs ht
    unfold pinReleaseState
    split <;> exact h
  · refine step_keeps (P := fairnessBounded) (fun _ _ h => h)
      (exec_keeps (fun _ _ => ⟨Nat.zero_le 8, Nat.zero_le 8⟩) (fun s h => ?_) (fun _ _ hk => hk.passes)) hs ht
    unfold pinReleaseState
    split <;> exact h
  · exact step_keeps (P := loadingQuiet) (fun _ _ h => h) exec_keeps_loadingQuiet hs ht

/-- Settles O8: each operation on a channel's record keeps the law, and `Keeps.channels` carries it through a step. -/
theorem channelsStayLawful : Obligations.ChannelsStayLawful := by
  refine fun s t hs ht => step_keeps (P := channelsLawful) (fun _ _ h => h)
    (exec_keeps (fun s _ => channelsLawful_pinResetState s) (fun s h => ?_) (fun _ _ hk => hk.channels)) hs ht
  unfold pinReleaseState
  split <;> exact h

/-- Settles O2: every arm of `exec` answers `next`, and no operation touches the queue. -/
theorem everyCommandCompletes : Obligations.EveryCommandCompletes := by
  refine ⟨fun c s => ?_, fun s hs => step_of_nil hs⟩
  rcases exec_cases c s with he | ⟨_, he⟩ | ⟨_, he⟩ | ⟨_, _, u, hg, he⟩ | ⟨_, u, hk, he⟩
  · exact ⟨s, he, rfl⟩
  · exact ⟨_, he, rfl⟩
  · exact ⟨_, he, pending_pinReleaseState s⟩
  · exact ⟨u, he, (Keeps.arbiterGrant hg).pending⟩
  · exact ⟨_, he, hk.pending⟩

/-- Settles O5: a step that settles marks what it changed; the arbiter's step by the accounts of its grants; the pin
reset and its release end in LOADING. -/
theorem stepsMarkChangedWords : Obligations.StepsMarkChangedWords := by
  refine ⟨fun c s t off he hrun hoff => ?_, fun s t => ⟨settle_eq s t, dirty_settle_loading s t, fun hrun off => ?_⟩,
    by decide, by decide, fun off hoff => ?_⟩
  · rcases exec_cases c s with h | ⟨_, h⟩ | ⟨_, h⟩ | ⟨hc, _, u, hg, h⟩ | ⟨_, u, _, h⟩ <;> rw [h] at he <;> cases he
    · exact absurd rfl hoff
    · exact absurd rfl hrun
    · cases hp : s.pinAsserted with
      | true => rw [pinReleaseState_of_asserted hp] at hrun; exact absurd rfl hrun
      | false => rw [pinReleaseState_of_not_asserted hp] at hoff; exact absurd rfl hoff
    · exact (changesAccounted_arbiterGrant hg hrun off hoff).imp_right (fun hw => ⟨hc, hw⟩)
    · exact .inl (changed_mem_dirty_settle s u off hrun hoff)
  · rw [mem_dirty_settle s t off hrun, or_comm]
  · unfold markedWith
    rw [if_neg (by omega), if_neg (by omega)]

end Sys2Proof.Proofs
end

section
/-! PROOF. The queue, reset, the pin reset and time. -/

namespace Sys2Proof.Machine

open Sys2Proof

/-- A command whose event happens answers its state, settled. -/
theorem next_event_of_some {s t : State} {f : State → Option State} (h : s.pinAsserted = false) (hf : f s = some t) :
    (Host.Outcome.next (event s f) : Host.Outcome State Fault Refusal) = .next (settle s t) :=
  congrArg Host.Outcome.next (event_of_some h hf)

/-- A command whose event does not happen leaves the state. -/
theorem next_event_of_none {s : State} {f : State → Option State} (hf : f s = none) :
    (Host.Outcome.next (event s f) : Host.Outcome State Fault Refusal) = .next s :=
  congrArg Host.Outcome.next (event_of_none hf)

/-! ## Reset -/

theorem port_reset (p : Port) : State.reset.port p = PortRecord.reset := by
  cases p <;> rfl

theorem bank_reset (b : BankId) : State.reset.bank b = Bank.reset := vector_get_replicate _ b

theorem chan_reset (c : ChanId) : State.reset.chan c = none := vector_get_replicate _ c

theorem channelsLawful_reset : channelsLawful State.reset := fun c ch hc => by
  rw [chan_reset] at hc
  cases hc

/-! ## The pin reset -/

theorem exec_of_pinned {c : Instr} {s : State} (h : s.pinAsserted = true) (h1 : c ≠ .pinReset)
    (h2 : c ≠ .pinResetRelease) : exec c s = .next s := by
  rcases exec_cases c s with he | ⟨hc, _⟩ | ⟨hc, _⟩ | ⟨_, hp, _⟩ | ⟨hp, _⟩
  · exact he
  · exact absurd hc h1
  · exact absurd hc h2
  · rw [h] at hp; cases hp
  · rw [h] at hp; cases hp

theorem exec_pinReset (s : State) : exec .pinReset s = .next (pinResetState s) := rfl

theorem exec_pinResetRelease (s : State) : exec .pinResetRelease s = .next (pinReleaseState s) := rfl

theorem cutOff_of_free {s : State} (h : s.arbiter.busy = none) : cutOff s = s := by
  unfold cutOff
  rw [h]

/-- A burst write cut off: as many words as had got their ready are stored (R129). -/
theorem memory_cutOff_of_write {s u : State} {p : Port} {a : Access} {op : PortOp} {n : Nat}
    (hb : s.arbiter.busy = some ⟨.port p, n⟩) (hph : (s.port p).phase = .granted a op) (hw : op.write = true)
    (hsize : op.size = 4)
    (hu : ((op.addrs.zip op.data).take (Config.accessesBeforeCut s.freeCount)).foldl
      (fun u e => storeWord op.bank e.1 e.2 u) s = u) : (cutOff s).ram = u.ram ∧ (cutOff s).lanes = u.lanes := by
  have hop : cutOperation (.port p) (some (Config.accessesBeforeCut s.freeCount)) s = u := by
    rw [cutOperation, hph]
    dsimp only
    rw [portRun, if_pos hw, if_pos hsize, writeWords_some, hu]
  unfold cutOff
  rw [hb]
  dsimp only
  rw [hop]
  exact ⟨rfl, rfl⟩

/-! ## Time -/

/-- A tick, written out: the microsecond within the millisecond counts outside LOADING. -/
theorem microsecondTick_eq (s : State) :
    microsecondTick s =
      { s with
        ports := ⟨{ s.ports.first with hold := tickTimer s.ports.first.hold },
          { s.ports.second with hold := tickTimer s.ports.second.hold }⟩
        arbiter := { s.arbiter with busy := s.arbiter.busy.map (fun b => { b with waited := b.waited + 1 }) }
        scrub := { s.scrub with timer := tickTimer s.scrub.timer }
        usInMs := if s.device = .loading then s.usInMs else s.usInMs + 1 } := by
  unfold microsecondTick
  dsimp only
  split <;> rfl

theorem tickTimer_running (n : Nat) : tickTimer (.running (n + 2)) = .running (n + 1) := by
  simp only [tickTimer]
  rw [if_neg (by omega)]
  rfl

theorem millisecondAdvance_of_due {s : State} (hrun : s.device ≠ .loading) (hdue : 1000 ≤ s.usInMs) :
    millisecondAdvance s = some
      { s with
        channels := s.channels.map (fun e => e.map (fun ch => { ch with deadline := tickTimer ch.deadline }))
        banks := s.banks.map (fun x => { x with retryTimer := tickTimer x.retryTimer })
        usInMs := s.usInMs - 1000
        msCount := s.msCount + 1 } := by
  unfold millisecondAdvance
  rw [if_pos ⟨hrun, hdue⟩]
  rfl

theorem freshnessExpiry_of_due {s : State} {c : ChanId} {ch : Channel} (hc : s.chan c = some ch)
    (hlive : ch.state = .live) (hdue : ch.deadline = .due) :
    freshnessExpiry c s = some
      (raiseChannel c .stale (s.setChan c (some { ch with state := .stale, deadline := .stopped }))) := by
  simp only [freshnessExpiry, hc, hlive, hdue, and_self, if_true]

theorem freshnessExpiry_of_not_due {s : State} {c : ChanId} {ch : Channel} (hc : s.chan c = some ch)
    (hdue : ch.deadline ≠ .due) : freshnessExpiry c s = none := by
  simp only [freshnessExpiry, hc, hdue, and_false, if_false]

end Sys2Proof.Machine

namespace Sys2Proof.Proofs

open Sys2Proof Sys2Proof.Machine

/-- Settles O1: by `step` on a nonempty queue. -/
theorem stepRunsFrontCommand : Obligations.StepRunsFrontCommand :=
  fun _ _ _ => step_of_cons rfl

/-- Settles O3: the fields by evaluation of `State.reset`, the invariants on its empty memory and channel table. -/
theorem resetAsStated : Obligations.ResetAsStated := by
  refine ⟨rfl, rfl, rfl, rfl, rfl, rfl, fun p => ?_, fun b => ?_, chan_reset, fun r => ?_, rfl, rfl, rfl, fun p => ?_,
    rfl, rfl, canonical_reset, trivial, ⟨Nat.zero_le 8, Nat.zero_le 8⟩, ⟨fun _ => rfl, fun _ => ⟨rfl, rfl, rfl, rfl⟩⟩,
    channelsLawful_reset⟩
  · rw [port_reset]; exact ⟨rfl, rfl, rfl, rfl, rfl⟩
  · rw [bank_reset]; exact ⟨rfl, rfl⟩
  · exact congrArg Region.enabled (vector_get_replicate Region.reset r)
  · cases p <;> decide

/-- Settles O4: by the pin reset's two steps, and for the others by the frame that holds every event back. -/
theorem pinResetAndRelease : Obligations.PinResetAndRelease := by
  refine ⟨fun s hfree => ?_, fun s hpin => ?_, fun s hpin => ?_, fun c s hpin h1 h2 => exec_of_pinned hpin h1 h2,
    fun s p a op n hb hph hw hsize => ?_⟩
  · rw [exec_pinReset, pinResetState, cutOff_of_free hfree]
  · rw [exec_pinResetRelease, pinReleaseState_of_asserted hpin]
  · rw [exec_pinResetRelease, pinReleaseState_of_not_asserted hpin]
  · have ⟨hram, hlanes⟩ := memory_cutOff_of_write hb hph hw hsize rfl
    exact ⟨_, Config.accessesBeforeCut s.freeCount, exec_pinReset s, hram, hlanes⟩

/-- Settles O10: each of the three steps of the time base by its own equation. -/
theorem timersCountDownAndExpire : Obligations.TimersCountDownAndExpire := by
  refine ⟨fun s hpin => ?_, tickTimer_running, rfl, rfl, rfl, fun s hop hdue => ?_, fun s c ch hpin hc hlive hdue => ?_,
    fun s c ch hc hdue => ?_⟩
  · exact next_event_of_some hpin (congrArg some (microsecondTick_eq s))
  · exact next_event_of_some hop.1 (millisecondAdvance_of_due hop.2 hdue)
  · exact next_event_of_some hpin (freshnessExpiry_of_due hc hlive hdue)
  · exact next_event_of_none (freshnessExpiry_of_not_due hc hdue)

end Sys2Proof.Proofs
end

section
/-! SUPPORT. Answers, the end of an operation and the putting of one, case by case. -/

namespace Sys2Proof.Machine

open Sys2Proof

/-! ## Answers -/

theorem giveAnswer_okay (p : Port) (a : Access) (d : List Word) (addr : BitVec 24) (l : Bool) (s : State) :
    giveAnswer p a ⟨d, none⟩ addr l s
      = s.setPort p { s.port p with phase := .idle, hold := .stopped, answer := some ⟨d, none⟩ } := rfl

theorem giveAnswer_fault_loading {p : Port} {a : Access} {d : List Word} {f : FaultCode} {addr : BitVec 24} {l : Bool}
    {s : State} (h : s.device = .loading) :
    giveAnswer p a ⟨d, some f⟩ addr l s
      = s.setPort p { s.port p with phase := .idle, hold := .stopped, answer := some ⟨d, some f⟩ } := by
  simp only [giveAnswer, h, if_true]

theorem setPort_setPort (s : State) (p : Port) (r r' : PortRecord) : (s.setPort p r).setPort p r' = s.setPort p r' := by
  cases p <;> rfl

/-- What a capture becomes when a fault is offered to it (R164). -/
theorem offerFault_eq (c : Capture PortFault) (r : PortFault) :
    offerFault c r = if c.record.isNone then ⟨some r, c.overflow⟩ else ⟨c.record, satInc c.overflow⟩ := by
  unfold offerFault
  cases c.record <;> rfl

theorem giveAnswer_fault_running {p : Port} {a : Access} {d : List Word} {f : FaultCode} {addr : BitVec 24} {l : Bool}
    {s : State} (h : s.device ≠ .loading) :
    giveAnswer p a ⟨d, some f⟩ addr l s
      = raiseGlobal p .accessFault (s.setPort p
          { s.port p with
            phase := .idle, hold := .stopped, answer := some ⟨d, some f⟩
            faultCount := satInc (s.port p).faultCount
            capture :=
              if (s.port p).capture.record.isNone then
                ⟨some ⟨addr, a.write, a.size, burstNat a, l, f, s.msCount⟩, (s.port p).capture.overflow⟩
              else ⟨(s.port p).capture.record, satInc (s.port p).capture.overflow⟩ }) := by
  simp only [giveAnswer, if_neg h, faultEffects, faultRecord, port_setPort_same, setPort_setPort, offerFault_eq]

/-! ## The end of an operation -/

@[simp] theorem lockAfter_plain (p : Port) (f : Option FaultCode) (s : State) : lockAfter p .plain f s = s := rfl

@[simp] theorem lockAfter_bcb (p : Port) (off : Nat) (f : Option FaultCode) (s : State) :
    lockAfter p (.bcb off) f s = s := rfl

@[simp] theorem lockAfter_commitWord (p : Port) (c : ChanId) (i : Fin 8) (f : Option FaultCode) (s : State) :
    lockAfter p (.commitWord c i) f s = s := rfl

@[simp] theorem lockAfter_writeHalf (p : Port) (f : Option FaultCode) (s : State) :
    lockAfter p .writeHalf f s = s.setLock none := rfl

/-- A locked read that ends in a fault opens no lock. -/
@[simp] theorem lockAfter_lockedRead_fault (p : Port) (addr : Nat) (f : FaultCode) (s : State) :
    lockAfter p (.lockedRead addr) (some f) s = s := rfl

/-- A locked read that ends with data outside LOADING opens it. -/
theorem lockAfter_lockedRead_okay {p : Port} {addr : Nat} {s : State} (h : s.device ≠ .loading) :
    lockAfter p (.lockedRead addr) none s = s.setLock (some ⟨p, addr⟩) := by
  simp only [lockAfter, Option.isNone_none, Bool.true_and, bne_iff_ne, if_pos h]

@[simp] theorem releaseKeptBack_plain (p : Port) (s : State) : releaseKeptBack p .plain s = s := rfl

@[simp] theorem releaseKeptBack_lockedRead (p : Port) (addr : Nat) (s : State) :
    releaseKeptBack p (.lockedRead addr) s = s := rfl

@[simp] theorem releaseKeptBack_writeHalf (p : Port) (s : State) : releaseKeptBack p .writeHalf s = s := rfl

@[simp] theorem releaseKeptBack_bcb (p : Port) (off : Nat) (s : State) : releaseKeptBack p (.bcb off) s = s := rfl

@[simp] theorem lockedMark_plain (a : Access) : lockedMark a .plain = a.locked := Bool.or_false _

@[simp] theorem lockedMark_lockedRead (a : Access) (x : Nat) : lockedMark a (.lockedRead x) = a.locked := Bool.or_false _

@[simp] theorem lockedMark_commitWord (a : Access) (c : ChanId) (i : Fin 8) :
    lockedMark a (.commitWord c i) = a.locked := Bool.or_false _

@[simp] theorem lockedMark_writeHalf (a : Access) : lockedMark a .writeHalf = true := Bool.or_true _

/-- The end of a plain operation is its answer. -/
theorem endPortOp_plain {p : Port} {a : Access} {op : PortOp} {r : OpResult} {s : State} (h : op.tag = .plain) :
    endPortOp p a op r s
      = giveAnswer p a ⟨if op.write then [] else r.data, r.fault⟩ (faultAddress a r.done) a.locked s := by
  simp only [endPortOp, answerOp, h, lockAfter_plain, releaseKeptBack_plain, lockedMark_plain]

/-- The end of a locked read: the lock, then the answer. -/
theorem endPortOp_lockedRead {p : Port} {a : Access} {op : PortOp} {r : OpResult} {s : State} {x : Nat}
    (h : op.tag = .lockedRead x) :
    endPortOp p a op r s
      = giveAnswer p a ⟨if op.write then [] else r.data, r.fault⟩ (faultAddress a r.done) a.locked
          (lockAfter p (.lockedRead x) r.fault s) := by
  simp only [endPortOp, answerOp, h, releaseKeptBack_lockedRead, lockedMark_lockedRead]

/-- The end of a write half: the lock closed, then the answer, marked locked. -/
theorem endPortOp_writeHalf {p : Port} {a : Access} {op : PortOp} {r : OpResult} {s : State} (h : op.tag = .writeHalf) :
    endPortOp p a op r s
      = giveAnswer p a ⟨if op.write then [] else r.data, r.fault⟩ (faultAddress a r.done) true (s.setLock none) := by
  simp only [endPortOp, answerOp, h, lockAfter_writeHalf, releaseKeptBack_writeHalf, lockedMark_writeHalf]

/-- The end of a commit's word 0 write: the answer, then a tag read kept back is let go. -/
theorem endPortOp_commitWord {p : Port} {a : Access} {op : PortOp} {r : OpResult} {s : State} {c : ChanId} {i : Fin 8}
    (h : op.tag = .commitWord c i) :
    endPortOp p a op r s
      = releaseKeptBack p (.commitWord c i)
          (giveAnswer p a ⟨if op.write then [] else r.data, r.fault⟩ (faultAddress a r.done) a.locked s) := by
  simp only [endPortOp, answerOp, h, lockAfter_commitWord, lockedMark_commitWord]

/-- The end of a command word's write: the handover, then the answer. -/
theorem endPortOp_bcb_command {p : Port} {a : Access} {op : PortOp} {r : OpResult} {s : State}
    (h : op.tag = .bcb (2 + portNat p)) :
    endPortOp p a op r s = giveAnswer p a ⟨[], r.fault⟩ a.addr a.locked (acceptCommand p (beatData a 0) s) := by
  simp only [endPortOp, answerOp, h, lockAfter_bcb, releaseKeptBack_bcb, if_true]

/-- The end of another BCB word's write: its handover waits. -/
theorem endPortOp_bcb_word {p : Port} {a : Access} {op : PortOp} {r : OpResult} {s : State} {off : Nat}
    (h : op.tag = .bcb off) (hoff : off ≠ 2 + portNat p) :
    endPortOp p a op r s
      = s.setPort p { s.port p with phase := .handover a off (beatData a 0) r.fault, hold := .stopped } := by
  simp only [endPortOp, answerOp, h, lockAfter_bcb, releaseKeptBack_bcb, if_neg hoff]

/-! ## Putting an operation -/

theorem putWords_of_inService {p : Port} {a : Access} {addrs : List Nat} {data : List Word} {tag : OpTag} {s : State}
    {b : BankId} (hb : s.bankOf (addrs.headD 0) = some b) (hin : s.inService b = true) :
    putWords p a addrs data tag s
      = s.setPort p { s.port p with
          phase := .atArbiter a ⟨b, addrs, a.write, a.size.val, byteLane a, data, tag⟩ } := by
  simp only [putWords, hb, putPort, hin, if_true, State.setPhase]

/-- In a bank out of service an operation ends without going to memory. -/
theorem putWords_of_outOfService {p : Port} {a : Access} {addrs : List Nat} {data : List Word} {tag : OpTag} {s : State}
    {b : BankId} (hb : s.bankOf (addrs.headD 0) = some b) (hout : s.inService b = false) :
    putWords p a addrs data tag s
      = endPortOp p a ⟨b, addrs, a.write, a.size.val, byteLane a, data, tag⟩ unavailableResult s := by
  simp only [putWords, hb, putPort, hout, Bool.false_eq_true, if_false]

/-- The data delivered and the address reported by an operation that did nothing. -/
theorem unavailable_data (write : Bool) :
    (⟨if write then [] else unavailableResult.data, unavailableResult.fault⟩ : Answer) = ⟨[], some .unavailable⟩ := by
  cases write <;> rfl

end Sys2Proof.Machine

namespace Sys2Proof.Proofs

open Sys2Proof Sys2Proof.Machine

/-- Settles O11: the answer by its fault and the device state; the putting by the bank's service and the tag. -/
theorem answerEffects : Obligations.AnswerEffects := by
  refine ⟨fun s p a d addr l => giveAnswer_okay p a d addr l s, fun s p a d f addr l => giveAnswer_fault_loading,
    fun s p a d f addr l => giveAnswer_fault_running, fun s p a addrs data tag b hb =>
    ⟨putWords_of_inService hb, ?_, ?_, ?_, ?_, ?_⟩⟩
  · intro hout htag
    rw [putWords_of_outOfService hb hout, endPortOp_plain htag, unavailable_data]
    rfl
  · intro x hout htag
    subst htag
    rw [putWords_of_outOfService hb hout, endPortOp_lockedRead rfl, unavailable_data]
    rfl
  · intro c i hout htag
    subst htag
    rw [putWords_of_outOfService hb hout, endPortOp_commitWord rfl, unavailable_data]
    rfl
  · intro hout htag
    subst htag
    rw [putWords_of_outOfService hb hout, endPortOp_bcb_command rfl]
    rfl
  · intro off hout htag hoff
    subst htag
    rw [putWords_of_outOfService hb hout, endPortOp_bcb_word rfl hoff]
    rfl

end Sys2Proof.Proofs
end

section
/-! PROOF. Taking an access: the accepted forms, the port's first step, and the classes of the decoder. -/

namespace Sys2Proof.Machine

open Sys2Proof

/-! ## Forms -/

theorem singleForm_iff (a : Access) :
    singleForm a = true ↔ (a.size.val = 1 ∨ a.size.val = 2 ∨ a.size.val = 4) ∧ a.addr.toNat % a.size.val = 0
      ∧ (a.locked = true → a.write = false ∧ a.size.val = 4) := by
  unfold singleForm
  cases a.locked <;> simp [or_assoc, and_assoc]

theorem burstForm_iff (a : Access) (n : Nat) :
    burstForm a n = true ↔ a.size.val = 4 ∧ 2 ≤ n ∧ n ≤ 8 ∧ a.addr.toNat % 4 = 0
      ∧ a.addr.toNat / 32 = (a.addr.toNat + 4 * n - 1) / 32 ∧ a.locked = false := by
  unfold burstForm
  simp [and_assoc]

theorem formOk_iff (a : Access) :
    formOk a = true ↔
      (a.burst = none ∧ (a.size.val = 1 ∨ a.size.val = 2 ∨ a.size.val = 4) ∧ a.addr.toNat % a.size.val = 0
          ∧ (a.locked = true → a.write = false ∧ a.size.val = 4))
      ∨ (∃ n, a.burst = some n ∧ a.size.val = 4 ∧ 2 ≤ n.val ∧ n.val ≤ 8 ∧ a.addr.toNat % 4 = 0
          ∧ a.addr.toNat / 32 = (a.addr.toNat + 4 * n.val - 1) / 32 ∧ a.locked = false) := by
  unfold formOk
  cases hb : a.burst with
  | none => simp [singleForm_iff]
  | some n => simp [burstForm_iff]

/-- A well-formed access touches at least one word. -/
theorem wordCount_pos {a : Access} (h : formOk a = true) : 0 < wordCount a := by
  unfold wordCount
  rcases (formOk_iff a).1 h with ⟨hb, _⟩ | ⟨n, hb, _, hn, _⟩ <;> rw [hb]
  · exact Nat.one_pos
  · exact Nat.lt_of_lt_of_le Nat.two_pos hn

/-- A single 4-byte access in form is aligned. -/
theorem byteLane_of_single {a : Access} (h : formOk a = true) (hs : isSingleWord a = true) : byteLane a = 0 := by
  obtain ⟨hnone, hsize⟩ : a.burst = none ∧ a.size.val = 4 := by simpa [isSingleWord] using hs
  rcases (formOk_iff a).1 h with ⟨_, _, halign, _⟩ | ⟨n, hb, _⟩
  · rwa [hsize] at halign
  · rw [hnone] at hb; cases hb

theorem wordCount_of_single {a : Access} (hs : isSingleWord a = true) : wordCount a = 1 := by
  obtain ⟨hnone, _⟩ : a.burst = none ∧ a.size.val = 4 := by simpa [isSingleWord] using hs
  simp only [wordCount, hnone]

theorem size_of_single {a : Access} (hs : isSingleWord a = true) : a.size.val = 4 := by
  have ⟨_, hsize⟩ : a.burst = none ∧ a.size.val = 4 := by simpa [isSingleWord] using hs
  exact hsize

theorem accessData_of_single {a : Access} (hs : isSingleWord a = true) : accessData a = [beatData a 0] := by
  simp [accessData, wordCount_of_single hs]

theorem wordsFrom_of_single {a : Access} (x : Nat) (hs : isSingleWord a = true) : wordsFrom x (wordCount a) = [x] := by
  simp [wordsFrom, wordCount_of_single hs]

/-- The first of the words an operation names. -/
theorem headD_wordsFrom {x n : Nat} (hn : 0 < n) : (wordsFrom x n).headD 0 = x := by
  obtain ⟨m, rfl⟩ : ∃ m, n = m + 1 := ⟨n - 1, by omega⟩
  simp [wordsFrom, List.range_succ_eq_map]

/-! ## The port's first step -/

/-- Outside LOADING a port takes an access under its limit in force. -/
theorem takeAccess_running {s : State} {p : Port} {a : Access} (h : s.device ≠ .loading) :
    takeAccess p a s = s.setPort p (taken (s.port p) (.held a)) := by
  simp only [takeAccess, limitTaken, if_neg h, taken]

/-- A free port passes its access to the form check and the decoder. -/
theorem portAccess_of_free {s : State} {p : Port} {a : Access} (h : s.free p) :
    portAccess p a s = some (admitPlain p a (s.setPort p (taken (s.port p) (.held a)))) := by
  obtain ⟨⟨_, hrun⟩, hidle, hlock⟩ := h
  simp only [portAccess, hidle, if_true, if_neg hrun, takeAccess_running hrun, admitAccess, arbiter_setPort]
  split
  · rename_i l hl
    rw [if_neg (hlock l hl)]
  · rfl

/-- PORT_ACCESS of a free port. -/
theorem exec_portAccess_of_free {s t : State} {p : Port} {a : Access} (h : s.free p)
    (ht : admitPlain p a (s.setPort p (taken (s.port p) (.held a))) = t) :
    exec (.portAccess p a) s = .next (settle s t) :=
  next_event_of_some h.1.1 (by rw [portAccess_of_free h, ht])

theorem admitPlain_malformed {s : State} {p : Port} {a : Access} (h : formOk a = false) :
    admitPlain p a s = answerFault p a .form s := by
  simp only [admitPlain, h, Bool.false_eq_true, if_false]

/-- An access in form is handed on as decode decides. -/
theorem admitPlain_formed {s : State} {p : Port} {a : Access} {d : Decoded} (h : formOk a = true)
    (hd : decode p a s = d) : admitPlain p a s = handOn p a d s := by
  simp only [admitPlain, h, if_true, hd]

theorem portAccess_of_loading {s : State} {p : Port} {a : Access} (hl : s.device = .loading)
    (hidle : (s.port p).phase = .idle) :
    portAccess p a s = some
      (s.setPort p { s.port p with phase := .held a, hold := .running 10000, answer := none }) := by
  simp only [portAccess, hidle, if_true, hl, takeAccess, limitTaken, startUnlessZero]
  rfl

/-! ## The decoder -/

theorem mem_chanIds (c : ChanId) : c ∈ chanIds := by
  revert c; decide

theorem mem_bankIds (b : BankId) : b ∈ bankIds := by
  revert b; decide

theorem inRange_iff (x base len : Nat) : inRange x base len = true ↔ base ≤ x ∧ x < base + len := by
  simp [inRange]

theorem windowOf_eq_none_iff (s : State) (x : Nat) :
    s.windowOf x = none ↔
      ∀ c ch, s.chan c = some ch → ¬ (ch.config.windowBase ≤ x ∧ x < ch.config.windowBase + 4 * ch.config.len) := by
  unfold State.windowOf
  rw [List.find?_eq_none]
  constructor
  · intro h c ch hc hx
    refine h c (mem_chanIds c) ?_
    rw [hc]
    exact (inRange_iff ..).2 hx
  · intro h c _ hx
    cases hc : s.chan c with
    | none => simp [hc] at hx
    | some ch =>
      rw [hc] at hx
      exact h c ch hc ((inRange_iff ..).1 hx)

theorem windowOf_eq_some {s : State} {x : Nat} {c : ChanId} (h : s.windowOf x = some c) :
    ∃ ch, s.chan c = some ch ∧ ch.config.windowBase ≤ x ∧ x < ch.config.windowBase + 4 * ch.config.len := by
  have hx := List.find?_some h
  cases hc : s.chan c with
  | none => simp [hc] at hx
  | some ch =>
    rw [hc] at hx
    exact ⟨ch, rfl, (inRange_iff ..).1 hx⟩

theorem inSlotArea_iff (s : State) (x : Nat) :
    s.inSlotArea x = true ↔ ∃ c ch, s.chan c = some ch ∧ ch.config.slotBase ≤ x
      ∧ x < ch.config.slotBase + 4 * ch.config.depth * ch.config.len := by
  unfold State.inSlotArea
  rw [List.any_eq_true]
  constructor
  · rintro ⟨c, _, h⟩
    cases hc : s.chan c with
    | none => simp [hc] at h
    | some ch =>
      rw [hc] at h
      exact ⟨c, ch, hc, (inRange_iff ..).1 h⟩
  · rintro ⟨c, ch, hc, h⟩
    refine ⟨c, mem_chanIds c, ?_⟩
    rw [hc]
    exact (inRange_iff ..).2 h

theorem bankCovers_iff (s : State) (x : Nat) (b : BankId) :
    (s.bank b).covers x = true ↔ ∃ cfg, (s.bank b).config = some cfg ∧ cfg.base ≤ x ∧ x < cfg.base + cfg.size := by
  unfold Bank.covers
  cases (s.bank b).config with
  | none => simp
  | some cfg => simp [inRange_iff]

theorem bankOf_eq_none_iff (s : State) (x : Nat) :
    s.bankOf x = none ↔ ∀ b cfg, (s.bank b).config = some cfg → ¬ (cfg.base ≤ x ∧ x < cfg.base + cfg.size) := by
  unfold State.bankOf
  rw [List.find?_eq_none]
  constructor
  · exact fun h b cfg hb hx => h b (mem_bankIds b) ((bankCovers_iff s x b).2 ⟨cfg, hb, hx⟩)
  · intro h b _ hx
    obtain ⟨cfg, hb, hw⟩ := (bankCovers_iff s x b).1 hx
    exact h b cfg hb hw

theorem bankOf_eq_some {s : State} {x : Nat} {b : BankId} (h : s.bankOf x = some b) :
    ∃ cfg, (s.bank b).config = some cfg ∧ cfg.base ≤ x ∧ x < cfg.base + cfg.size :=
  have hx : (s.bank b).covers x = true := List.find?_some (p := fun d => (s.bank d).covers x) h
  (bankCovers_iff s x b).1 hx

theorem decode_bcb {s : State} {p : Port} {a : Access} (h : s.inBcb a.addr.toNat = true) :
    decode p a s = decodeBcb p a ((a.addr.toNat - s.bcbBase) / 4) := by
  simp only [decode, h, if_true]

theorem decodeBcb_read {p : Port} {a : Access} {off : Nat} (h : a.write = false) :
    decodeBcb p a off = if a.locked = true then .refused .form else .bcbRead := by
  simp only [decodeBcb, h, Bool.false_eq_true, if_false]

theorem decode_window {s : State} {p : Port} {a : Access} {c : ChanId} {ch : Channel}
    (h : s.inBcb a.addr.toNat = false) (hw : s.windowOf a.addr.toNat = some c) (hc : s.chan c = some ch) :
    decode p a s = decodeWindow a c ch := by
  simp only [decode, h, Bool.false_eq_true, if_false, hw, hc]

theorem decode_plain {s : State} {p : Port} {a : Access} (h : s.inBcb a.addr.toNat = false)
    (hw : s.windowOf a.addr.toNat = none) : decode p a s = decodePlain p a s := by
  simp only [decode, h, Bool.false_eq_true, if_false, hw]

/-- The regions are asked from the highest number down: what stands before region `r` has a higher number. -/
theorem regionIdsDown_split (r : Fin 8) :
    regionIdsDown = regionIdsDown.take (7 - r.val) ++ r :: regionIdsDown.drop (8 - r.val)
      ∧ ∀ q ∈ regionIdsDown.take (7 - r.val), r < q := by
  revert r; decide

theorem permission_of_highest {s : State} {p : Port} {x : Nat} {r : Fin 8} (hr : (s.regions.get r).covers x = true)
    (hq : ∀ q : Fin 8, r < q → (s.regions.get q).covers x = false) :
    s.permission p x = (s.regions.get r).perms.get p := by
  have ⟨hsplit, hlt⟩ := regionIdsDown_split r
  have hfind : regionIdsDown.find? (fun r => (s.regions.get r).covers x) = some r :=
    List.find?_eq_some_iff_append.2 ⟨hr, _, _, hsplit, fun q hm => by rw [hq q (hlt q hm)]; rfl⟩
  simp only [State.permission, hfind]

theorem permission_default {s : State} {p : Port} {x : Nat} (hq : ∀ q : Fin 8, (s.regions.get q).covers x = false) :
    s.permission p x = s.defaultAccess.get p := by
  have hfind : regionIdsDown.find? (fun r => (s.regions.get r).covers x) = none :=
    List.find?_eq_none.2 (fun q _ => by rw [hq q]; exact Bool.false_ne_true)
  simp only [State.permission, hfind]

theorem permits_iff (perm : Permission) (a : Access) :
    permits perm a = true ↔ perm = .readWrite ∨ (perm = .read ∧ a.write = false ∧ a.locked = false) := by
  cases perm <;> simp [permits, permitsRead, permitsWrite]

theorem covers_iff (r : Region) (x : Nat) :
    r.covers x = true ↔ r.enabled = true ∧ 256 * r.base.toNat ≤ x ∧ x ≤ 256 * r.limit.toNat + 255 := by
  simp [Region.covers, and_assoc, Nat.mul_comm]

end Sys2Proof.Machine

namespace Sys2Proof.Proofs

open Sys2Proof Sys2Proof.Machine

/-- Settles O12: by the device state, the form and what decode decides. -/
theorem accessTakenOrHeld : Obligations.AccessTakenOrHeld := by
  refine ⟨formOk_iff, fun s p a hpin hl hidle => ?_, fun s p a hfree hform => ?_, fun s p a f hfree hform hd => ?_,
    fun s p a c off hfree hform hd => ?_⟩
  · exact next_event_of_some hpin (portAccess_of_loading hl hidle)
  · exact exec_portAccess_of_free hfree (admitPlain_malformed hform)
  · exact exec_portAccess_of_free hfree (admitPlain_formed hform hd)
  · refine exec_portAccess_of_free hfree ?_
    rw [admitPlain_formed hform hd, handOn, State.setPhase, setPort_setPort, port_setPort_same]
    rfl

/-- Settles O13: decode by its classes in order, the permission by the regions from the highest down, and each range by
its bounds. -/
theorem classificationOrder : Obligations.ClassificationOrder := by
  refine ⟨fun s p a => ⟨fun h => ⟨fun hw => ?_, fun _ => decode_bcb h⟩, fun c ch h hw hc => ?_, fun h hw => ?_⟩,
    fun s p x r => permission_of_highest, fun s p x => permission_default, permits_iff, fun s x =>
    ⟨inRange_iff .., windowOf_eq_none_iff s x, fun c => windowOf_eq_some, inSlotArea_iff s x, bankOf_eq_none_iff s x,
      fun b => bankOf_eq_some⟩, covers_iff⟩
  · rw [decode_bcb h, decodeBcb_read hw]
  · rw [decode_window h hw hc, decodeWindow]
  · rw [decode_plain h hw, decodePlain]
    simp only [Option.isNone_iff_eq_none]

end Sys2Proof.Proofs
end

section
/-! PROOF. An access put to memory: the BCB's words, plain memory, the locked pair, and the expiry of the hold timer. -/

namespace Sys2Proof.Machine

open Sys2Proof

/-! ## Words put directly -/

@[simp] theorem faultAddress_zero (a : Access) : faultAddress a 0 = a.addr := by
  unfold faultAddress
  split <;> simp

/-- A port that has just taken an access puts it to a bank in service. -/
theorem putDirect_taken_of_inService {s : State} {p : Port} {a : Access} {tag : OpTag} {b : BankId}
    (hform : formOk a = true) (hb : s.bankOf (firstWord a) = some b) (hin : s.inService b = true) :
    putDirect p a tag (s.setPort p (taken (s.port p) (.held a)))
      = s.setPort p (taken (s.port p) (.atArbiter a
          ⟨b, wordsFrom (firstWord a) (wordCount a), a.write, a.size.val, byteLane a,
            if a.write then accessData a else [], tag⟩)) := by
  have hb' : (s.setPort p (taken (s.port p) (.held a))).bankOf ((wordsFrom (firstWord a) (wordCount a)).headD 0)
      = some b := by
    rw [headD_wordsFrom (wordCount_pos hform)]
    exact hb
  have hin' : (s.setPort p (taken (s.port p) (.held a))).inService b = true := hin
  rw [putDirect, putWords_of_inService hb' hin', setPort_setPort, port_setPort_same]
  rfl

/-- In a bank out of service it ends there. -/
theorem putDirect_of_outOfService {u : State} {p : Port} {a : Access} {tag : OpTag} {b : BankId}
    (hform : formOk a = true) (hb : u.bankOf (firstWord a) = some b) (hout : u.inService b = false) :
    putDirect p a tag u
      = endPortOp p a ⟨b, wordsFrom (firstWord a) (wordCount a), a.write, a.size.val, byteLane a,
          if a.write then accessData a else [], tag⟩ unavailableResult u := by
  rw [putDirect, putWords_of_outOfService (by rw [headD_wordsFrom (wordCount_pos hform)]; exact hb) hout]

theorem putDirect_plain_unavailable {u : State} {p : Port} {a : Access} {b : BankId}
    (hform : formOk a = true) (hb : u.bankOf (firstWord a) = some b) (hout : u.inService b = false) :
    putDirect p a .plain u = answerFault p a .unavailable u := by
  rw [putDirect_of_outOfService hform hb hout, endPortOp_plain rfl, unavailable_data]
  exact congrArg (fun x => giveAnswer p a ⟨[], some .unavailable⟩ x a.locked u) (faultAddress_zero a)

theorem putDirect_locked_unavailable {u : State} {p : Port} {a : Access} {b : BankId} {x : Nat}
    (hform : formOk a = true) (hb : u.bankOf (firstWord a) = some b) (hout : u.inService b = false) :
    putDirect p a (.lockedRead x) u = answerFault p a .unavailable u := by
  rw [putDirect_of_outOfService hform hb hout, endPortOp_lockedRead rfl, unavailable_data]
  exact congrArg (fun x => giveAnswer p a ⟨[], some .unavailable⟩ x a.locked u) (faultAddress_zero a)

/-! ## BCB writes -/

/-- Taking an access moves no address. -/
theorem decode_bcb_setPort {s : State} {p : Port} {a : Access} (r : PortRecord) (h : s.inBcb a.addr.toNat = true) :
    decode p a (s.setPort p r) = decodeBcb p a ((a.addr.toNat - s.bcbBase) / 4) :=
  decode_bcb (s := s.setPort p r) h

theorem any_bcbOffsets_iff (off : Nat) (a : Access) (f : Nat → Bool) :
    (bcbOffsets off a).any f = true ↔ ∃ k < wordCount a, f (off + k) = true := by
  simp [bcbOffsets]

/-- A writable word among others: FORM. -/
theorem decodeBcb_form {p : Port} {a : Access} {off : Nat} (hw : a.write = true)
    (h : ∃ k < wordCount a, bcbWritable p (off + k) = true) (hs : isSingleWord a = false) :
    decodeBcb p a off = .refused .form := by
  rw [decodeBcb, if_pos hw, (any_bcbOffsets_iff off a _).2 h, hs]
  rfl

/-- A word that is not writable: RESERVED, when it is not FORM. -/
theorem decodeBcb_reserved {p : Port} {a : Access} {off : Nat} (hw : a.write = true)
    (hn : ¬ ((∃ k < wordCount a, bcbWritable p (off + k) = true) ∧ isSingleWord a = false))
    (h : ∃ k < wordCount a, bcbWritable p (off + k) = false) : decodeBcb p a off = .refused .reserved := by
  have hform : ((bcbOffsets off a).any (bcbWritable p) && !isSingleWord a) = false := by
    rw [Bool.eq_false_iff, ne_eq, Bool.and_eq_true, Bool.not_eq_true', any_bcbOffsets_iff]
    exact hn
  have hres : (bcbOffsets off a).any (fun k => !bcbWritable p k) = true := by
    rw [any_bcbOffsets_iff]
    simpa using h
  rw [decodeBcb, if_pos hw, hform, hres]
  rfl

theorem decodeBcb_write {p : Port} {a : Access} {off : Nat} (hw : a.write = true) (hs : isSingleWord a = true)
    (h : bcbWritable p off = true) : decodeBcb p a off = .bcbWrite off := by
  simp [decodeBcb, hw, hs, bcbOffsets, wordCount_of_single hs, h]

theorem bcbWritable_port0_iff (off : Nat) :
    bcbWritable .port0 off = true ↔ off = 2 ∨ (6 ≤ off ∧ off ≤ 13) ∨ (32 ≤ off ∧ off ≤ 47) := by
  change (off == 2 || (decide (6 ≤ off) && decide (off ≤ 13)) || (decide (32 ≤ off) && decide (off ≤ 47))) = true ↔ _
  simp only [Bool.or_eq_true, Bool.and_eq_true, decide_eq_true_eq, beq_iff_eq, or_assoc]

theorem bcbWritable_port1_iff (off : Nat) :
    bcbWritable .port1 off = true ↔ off = 3 ∨ (6 ≤ off ∧ off ≤ 13) ∨ (48 ≤ off ∧ off ≤ 63) := by
  change (off == 3 || (decide (6 ≤ off) && decide (off ≤ 13)) || (decide (48 ≤ off) && decide (off ≤ 63))) = true ↔ _
  simp only [Bool.or_eq_true, Bool.and_eq_true, decide_eq_true_eq, beq_iff_eq, or_assoc]

/-! ## The write half -/

theorem isWriteHalf_iff (a : Access) (addr : Nat) :
    isWriteHalf a addr = true ↔ a.write = true ∧ isSingleWord a = true ∧ a.locked = false ∧ a.addr.toNat = addr := by
  simp [isWriteHalf, and_assoc]

/-- The access after a locked read meets the open lock. -/
theorem exec_portAccess_of_lock {s t : State} {p : Port} {a : Access} {addr : Nat} (hop : s.operating)
    (hidle : (s.port p).phase = .idle) (hlock : s.arbiter.lock = some ⟨p, addr⟩)
    (ht : admitLocked p a addr (s.setPort p (taken (s.port p) (.held a))) = t) :
    exec (.portAccess p a) s = .next (settle s t) := by
  obtain ⟨hpin, hrun⟩ := hop
  refine next_event_of_some hpin ?_
  simp only [portAccess, hidle, if_true, if_neg hrun, takeAccess_running hrun, admitAccess, arbiter_setPort, hlock, ht]

/-- A write half that decode refuses, or hands to anything but memory. -/
theorem admitHalf_of_refused {u : State} {p : Port} {a : Access} {f : FaultCode}
    (h : u.inBcb a.addr.toNat = true ∨ u.windowOf a.addr.toNat = none) (hd : decode p a u = .refused f) :
    admitHalf p a u = answerHalf p a f u := by
  have hguard : ((u.windowOf a.addr.toNat).isSome && !u.inBcb a.addr.toNat) = false := by
    rcases h with h | h <;> simp [h]
  simp only [admitHalf, hguard, Bool.false_eq_true, if_false, hd]

theorem admitHalf_of_bcbWrite {u : State} {p : Port} {a : Access} {off : Nat} (h : u.inBcb a.addr.toNat = true)
    (hd : decode p a u = .bcbWrite off) : admitHalf p a u = answerHalf p a .form u := by
  simp only [admitHalf, h, Bool.not_true, Bool.and_false, Bool.false_eq_true, if_false, hd]

theorem admitHalf_of_window {u : State} {p : Port} {a : Access} (h : u.inBcb a.addr.toNat = false)
    (hw : u.windowOf a.addr.toNat ≠ none) : admitHalf p a u = answerHalf p a .form u := by
  have hsome : (u.windowOf a.addr.toNat).isSome = true := Option.isSome_iff_ne_none.2 hw
  simp only [admitHalf, h, hsome, Bool.not_false, Bool.and_true, if_true]

theorem admitHalf_of_memory {u : State} {p : Port} {a : Access} (hw : u.windowOf a.addr.toNat = none)
    (hd : decode p a u = .memory) : admitHalf p a u = performHalf p a u := by
  simp only [admitHalf, hw, Option.isSome_none, Bool.false_and, Bool.false_eq_true, if_false, hd]

theorem performHalf_of_inService {u : State} {p : Port} {a : Access} {b : BankId}
    (hb : u.bankOf a.addr.toNat = some b) (hin : u.inService b = true) :
    performHalf p a u =
      (u.setPort p { u.port p with
        phase := .granted a ⟨b, [firstWord a], true, a.size.val, byteLane a, accessData a, .writeHalf⟩
        hold := .stopped }).setBusy (some ⟨.port p, 0⟩) := by
  simp only [performHalf, hb, hin, if_true, State.occupy]

theorem performHalf_of_outOfService {u : State} {p : Port} {a : Access} {b : BankId}
    (hb : u.bankOf a.addr.toNat = some b) (hout : u.inService b = false) :
    performHalf p a u = answerHalf p a .unavailable u := by
  simp only [performHalf, hb, hout, Bool.false_eq_true, if_false]

/-! ## The end of a locked operation -/

theorem portOperationEnd_of_running {s : State} {p : Port} {a : Access} {op : PortOp} (h : s.running p a op) :
    portOperationEnd p s = some (endPortOp p a op (portRun p op none (s.setBusy none)).1
      (portRun p op none (s.setBusy none)).2) := by
  obtain ⟨_, ⟨n, hbusy⟩, hphase⟩ := h
  simp only [portOperationEnd, hbusy, hphase, if_true]

/-- PORT_OPERATION_END of the operation that holds the memory port. -/
theorem exec_portOperationEnd_of_running {s t u : State} {p : Port} {a : Access} {op : PortOp} {r : OpResult}
    (h : s.running p a op) (hr : portRun p op none (s.setBusy none) = (r, t)) (hu : endPortOp p a op r t = u) :
    exec (.portOperationEnd p) s = .next (settle s u) :=
  next_event_of_some h.1 (by rw [portOperationEnd_of_running h, hr, hu])

/-- A full-word read, word by word. -/
theorem portRun_read {p : Port} {op : PortOp} {bud : Option Nat} {s t : State} {r : OpResult} (hw : op.write = false)
    (hr : readWords (portSource p) op.bank op.addrs bud s = (r, t)) :
    portRun p op bud s = (⟨deliver op r.data, r.done, r.fault⟩, t) := by
  simp only [portRun, hw, Bool.false_eq_true, if_false, hr]

theorem deliver_words {op : PortOp} (hs : op.size = 4) (d : List Word) : deliver op d = d := by
  simp only [deliver, hs, if_true]

theorem portRun_write {p : Port} {op : PortOp} {bud : Option Nat} {s : State} (hw : op.write = true)
    (hs : op.size = 4) : portRun p op bud s = writeWords op.bank (op.addrs.zip op.data) bud s := by
  simp only [portRun, hw, if_true, hs]

/-- A read of one word that gives a value. -/
theorem readWords_single_data {src : Source} {b : BankId} {addr : Nat} {bud bud1 : Option Nat} {s u : State} {d : Word}
    (h : readAccess src b addr bud s = (.data d, bud1, u)) : readWords src b [addr] bud s = (⟨[d], 1, none⟩, u) := by
  simp only [readWords, h]

/-- A read of one word that ends in a fault. -/
theorem readWords_single_fault {src : Source} {b : BankId} {addr : Nat} {bud bud1 : Option Nat} {s u : State}
    {out : ReadOut} {f : FaultCode} (h : readAccess src b addr bud s = (out, bud1, u)) (hf : readFault out = some f) :
    readWords src b [addr] bud s = (⟨[], 0, some f⟩, u) := by
  rw [← hf]
  cases out with
  | data d => cases hf
  | uncorrectable raw => simp only [readWords, h]
  | poisoned raw => simp only [readWords, h]
  | timeout => simp only [readWords, h]

@[simp] theorem spend_none : spend none = some none := rfl

theorem readAccess_corrected {src : Source} {b : BankId} {addr : Nat} {s : State} {v : Word}
    (hp : s.isProtected b = true) (hc : s.classAt addr = .corrected v) :
    readAccess src b addr none s = (.data v, none, countCorrected (storeWord b addr v s)) := by
  rw [readAccess_protected hp, hc]
  rfl

theorem readAccess_poisoned {src : Source} {b : BankId} {addr : Nat} {s : State}
    (hp : s.isProtected b = true) (hc : s.classAt addr = .poisoned) :
    readAccess src b addr none s = (.poisoned (wordRead s.ram addr), none, countPoisoned src s) := by
  rw [readAccess_protected hp, hc]
  rfl

theorem readAccess_uncorrectable {src : Source} {b : BankId} {addr : Nat} {s : State}
    (hp : s.isProtected b = true) (hc : s.classAt addr = .uncorrectable) :
    readAccess src b addr none s = (.uncorrectable (wordRead s.ram addr), none,
      countUncorrectable src b addr (storePoison addr (wordRead s.ram addr) s)) := by
  rw [readAccess_protected hp, hc]
  rfl

/-! ## What counting leaves -/

theorem CheckTouch.ports {s t : State} (h : CheckTouch s t) : t.ports = s.ports := by
  obtain ⟨m, l, k, e, c, r, g, rfl⟩ := h
  rfl

theorem CheckTouch.arbiter {s t : State} (h : CheckTouch s t) : t.arbiter = s.arbiter := by
  obtain ⟨m, l, k, e, c, r, g, rfl⟩ := h
  rfl

theorem CheckTouch.device {s t : State} (h : CheckTouch s t) : t.device = s.device := by
  obtain ⟨m, l, k, e, c, r, g, rfl⟩ := h
  rfl

theorem CheckTouch.port {s t : State} (h : CheckTouch s t) (p : Port) : t.port p = s.port p :=
  congrArg (Pair.get · p) h.ports

/-- A corrected word stored and counted, at the end of an operation that held the memory port. -/
theorem CheckTouch.storeCorrected (b : BankId) (addr : Nat) (v : Word) (s : State) :
    CheckTouch s (countCorrected (storeWord b addr v s)) :=
  (CheckTouch.store b addr v s).trans (.corrected _)

/-- What an answer leaves at its port and in the arbiter. -/
theorem giveAnswer_phase (p : Port) (a : Access) (ans : Answer) (addr : BitVec 24) (l : Bool) (s : State) :
    ((giveAnswer p a ans addr l s).port p).phase = .idle ∧ ((giveAnswer p a ans addr l s).port p).answer = some ans := by
  obtain ⟨d, f⟩ := ans
  cases f with
  | none => rw [giveAnswer_okay, port_setPort_same]; exact ⟨rfl, rfl⟩
  | some f =>
    by_cases hl : s.device = .loading
    · rw [giveAnswer_fault_loading hl, port_setPort_same]; exact ⟨rfl, rfl⟩
    · rw [giveAnswer_fault_running hl]
      obtain ⟨g, hg⟩ := raiseGlobal_touches p .accessFault (s.setPort p _)
      rw [hg]
      change (((s.setPort p _).port p).phase = _ ∧ ((s.setPort p _).port p).answer = _)
      rw [port_setPort_same]
      exact ⟨rfl, rfl⟩

theorem giveAnswer_arbiter (p : Port) (a : Access) (ans : Answer) (addr : BitVec 24) (l : Bool) (s : State) :
    (giveAnswer p a ans addr l s).arbiter = s.arbiter := by
  obtain ⟨x, g, h⟩ := giveAnswer_touches p a ans addr l s
  rw [h]

/-- A locked read refused by its word opens no lock. -/
theorem exec_lockedRead_refused {s u : State} {p : Port} {a : Access} {op : PortOp} {addr : Nat} {out : ReadOut}
    {f : FaultCode} (h : s.running p a op) (hw : op.write = false) (htag : op.tag = .lockedRead addr)
    (haddrs : op.addrs = [addr]) (hread : readAccess (portSource p) op.bank addr none (s.setBusy none) = (out, none, u))
    (hf : readFault out = some f) :
    ∃ t, exec (.portOperationEnd p) s = .next t ∧ t.arbiter.lock = s.arbiter.lock ∧ (t.port p).phase = .idle
      ∧ (t.port p).answer = some ⟨[], some f⟩ := by
  have hrun : readWords (portSource p) op.bank op.addrs none (s.setBusy none) = (⟨[], 0, some f⟩, u) := by
    rw [haddrs, readWords_single_fault hread hf]
  have htouch : CheckTouch (s.setBusy none) u := by
    have := readAccess_touches (portSource p) op.bank addr none (s.setBusy none)
    rwa [hread] at this
  have hdata : deliver op [] = [] := by
    unfold deliver
    split <;> rfl
  refine ⟨_, exec_portOperationEnd_of_running h (portRun_read hw hrun) (endPortOp_lockedRead htag), ?_⟩
  simp only [hw, Bool.false_eq_true, if_false, hdata, lockAfter_lockedRead_fault]
  have ⟨hphase, hans⟩ := giveAnswer_phase p a ⟨[], some f⟩ (faultAddress a 0) a.locked u
  refine ⟨?_, hphase, hans⟩
  rw [arbiter_settle, giveAnswer_arbiter, htouch.arbiter]
  rfl

/-! ## The expiry of the hold timer -/

theorem holdExpired_of_due {s : State} {p : Port} (h : (s.port p).hold = .due) : holdExpired p s = expire p s := by
  simp only [holdExpired, h, if_true]

theorem holdExpired_of_granted {s : State} {p : Port} {a : Access} {op : PortOp}
    (h : (s.port p).phase = .granted a op) : holdExpired p s = none := by
  unfold holdExpired expire
  rw [h]
  split <;> rfl

theorem dropWaiting_of_some {s : State} {c : ChanId} {ch : Channel} (h : s.chan c = some ch) :
    dropWaiting c s = s.setChan c (some { ch with waiting := none }) := by
  simp only [dropWaiting, h]

/-- Only the end of a commit's word 0 write lets something go. -/
theorem releaseKeptBack_other {s : State} {p : Port} {tag : OpTag} (h : ∀ c i, tag ≠ .commitWord c i) :
    releaseKeptBack p tag s = s := by
  cases tag with
  | commitWord c i => exact absurd rfl (h c i)
  | plain => rfl
  | lockedRead addr => rfl
  | writeHalf => rfl
  | bcb off => rfl

/-- The tag read kept back on that slot is put. -/
theorem releaseKeptBack_commitWord {s : State} {p : Port} {a : Access} {op : PortOp} {c : ChanId} {i : Fin 8}
    (h : (s.port (otherPort p)).phase = .keptBack a op c i) :
    releaseKeptBack p (.commitWord c i) s = putLast (otherPort p) a op s := by
  simp only [releaseKeptBack, h, and_self, if_true]

theorem putLast_of_inService {s : State} {p : Port} {a : Access} {op : PortOp} (h : s.inService op.bank = true) :
    putLast p a op s = s.setPort p { s.port p with phase := .atArbiter a op } := by
  simp only [putLast, h, if_true, State.setPhase]

theorem putLast_of_outOfService {s : State} {p : Port} {a : Access} {op : PortOp} (h : s.inService op.bank = false) :
    putLast p a op s = answerOp p a op unavailableResult s := by
  simp only [putLast, h, Bool.false_eq_true, if_false]

end Sys2Proof.Machine

namespace Sys2Proof.Proofs

open Sys2Proof Sys2Proof.Machine

/-- Settles O14: by decode of the BCB, and for a word handed on by its bank's service. -/
theorem bcbAccessChecked : Obligations.BcbAccessChecked := by
  refine ⟨fun s p a hfree hform hbcb hw => ⟨fun hlocked => ?_, fun b hlocked hb => ⟨fun hin => ?_, fun hout => ?_⟩⟩,
    fun s p a hfree hform hbcb hw => ⟨fun hsome hsingle => ?_, fun hn hsome => ?_, fun b hsingle hwr hb hin => ?_,
      fun b hsingle hwr hb hout => ⟨fun hoff => ?_, fun hoff => ?_⟩⟩,
    fun off => ⟨bcbWritable_port0_iff off, bcbWritable_port1_iff off⟩⟩
  · refine exec_portAccess_of_free hfree (admitPlain_formed hform (d := .refused .form) ?_)
    rw [decode_bcb_setPort _ hbcb, decodeBcb_read hw, if_pos hlocked]
  · refine exec_portAccess_of_free hfree ((admitPlain_formed hform (d := .bcbRead) ?_).trans ?_)
    · rw [decode_bcb_setPort _ hbcb, decodeBcb_read hw, hlocked]
      rfl
    · rw [handOn, putDirect_taken_of_inService hform hb hin, hw]
      rfl
  · refine exec_portAccess_of_free hfree ((admitPlain_formed hform (d := .bcbRead) ?_).trans ?_)
    · rw [decode_bcb_setPort _ hbcb, decodeBcb_read hw, hlocked]
      rfl
    · exact putDirect_plain_unavailable hform hb hout
  · refine exec_portAccess_of_free hfree (admitPlain_formed hform (d := .refused .form) ?_)
    exact (decode_bcb_setPort _ hbcb).trans (decodeBcb_form hw hsome hsingle)
  · refine exec_portAccess_of_free hfree (admitPlain_formed hform (d := .refused .reserved) ?_)
    exact (decode_bcb_setPort _ hbcb).trans (decodeBcb_reserved hw hn hsome)
  · refine exec_portAccess_of_free hfree ((admitPlain_formed hform
      ((decode_bcb_setPort _ hbcb).trans (decodeBcb_write hw hsingle hwr))).trans ?_)
    rw [handOn, putDirect_taken_of_inService hform hb hin, wordsFrom_of_single _ hsingle, hw, size_of_single hsingle,
      byteLane_of_single hform hsingle, accessData_of_single hsingle]
    rfl
  · refine exec_portAccess_of_free hfree ((admitPlain_formed hform
      ((decode_bcb_setPort _ hbcb).trans (decodeBcb_write hw hsingle hwr))).trans ?_)
    exact (putDirect_of_outOfService (u := s.setPort p _) hform hb hout).trans
      (endPortOp_bcb_command (congrArg OpTag.bcb hoff))
  · refine exec_portAccess_of_free hfree ((admitPlain_formed hform
      ((decode_bcb_setPort _ hbcb).trans (decodeBcb_write hw hsingle hwr))).trans ?_)
    refine (putDirect_of_outOfService (u := s.setPort p _) hform hb hout).trans
      ((endPortOp_bcb_word rfl hoff).trans ?_)
    rw [setPort_setPort, port_setPort_same]
    rfl

/-- Settles O15: by the bank's service, for a plain access and a locked read alike. -/
theorem plainAccessPut : Obligations.PlainAccessPut := by
  refine fun s p a b hfree hform hd hb => ⟨fun hin => ?_, fun hout => ?_⟩
  · refine exec_portAccess_of_free hfree ((admitPlain_formed hform hd).trans ?_)
    exact putDirect_taken_of_inService hform hb hin
  · refine exec_portAccess_of_free hfree ((admitPlain_formed hform hd).trans ?_)
    rw [handOn, memoryTag]
    split
    · exact putDirect_locked_unavailable hform hb hout
    · exact putDirect_plain_unavailable hform hb hout

/-- Settles O16: the access after a locked read by its decoding, the end of the locked read by the class of its word,
the end of the write half by its one stored word. -/
theorem lockedPair : Obligations.LockedPair := by
  refine ⟨fun s p a addr hop hidle hlock => ?_, fun s p a op addr h hrun hw hs htag haddrs => ?_,
    fun s p a op addr v h hw hs htag haddrs hdata => ?_⟩
  · have hexec : ∀ t, isWriteHalf a addr = true →
        admitHalf p a (s.setPort p (taken (s.port p) (.held a))) = t →
        exec (.portAccess p a) s = .next (settle s t) := by
      intro t hhalf ht
      exact exec_portAccess_of_lock hop hidle hlock (by rw [admitLocked, if_pos hhalf, ht])
    refine ⟨fun hhalf => ?_, fun b hhalf hwin hd hb hin => ?_, fun b hhalf hwin hd hb hout => ?_,
      fun hhalf hbcb hwin => ?_, fun f hhalf hor hd => ?_, fun off hhalf hbcb hd => ?_⟩
    · exact exec_portAccess_of_lock hop hidle hlock (by rw [admitLocked, hhalf]; rfl)
    · refine hexec _ hhalf ?_
      obtain ⟨_, hsingle, _, _⟩ := (isWriteHalf_iff a addr).1 hhalf
      refine (admitHalf_of_memory (u := s.setPort p _) hwin hd).trans ((performHalf_of_inService (u := s.setPort p _) hb hin).trans ?_)
      rw [setPort_setPort, port_setPort_same, size_of_single hsingle, accessData_of_single hsingle]
      rfl
    · exact hexec _ hhalf ((admitHalf_of_memory (u := s.setPort p _) hwin hd).trans (performHalf_of_outOfService (u := s.setPort p _) hb hout))
    · exact hexec _ hhalf (admitHalf_of_window hbcb hwin)
    · exact hexec _ hhalf (admitHalf_of_refused hor hd)
    · exact hexec _ hhalf (admitHalf_of_bcbWrite hbcb hd)
  · refine ⟨fun hclean => ?_, fun v hp hc => ?_, fun hp hc => ?_, fun hp hc => ?_⟩
    · have hread : readWords (portSource p) op.bank op.addrs none (s.setBusy none)
          = (⟨[wordRead s.ram addr], 1, none⟩, s.setBusy none) := by
        rw [haddrs]
        exact readWords_single_data (readAccess_clean (s := s.setBusy none) hclean)
      refine exec_portOperationEnd_of_running h (portRun_read hw hread) ?_
      rw [endPortOp_lockedRead htag, lockAfter_lockedRead_okay (s := s.setBusy none) hrun, hw, deliver_words hs]
      rfl
    · have hread : readWords (portSource p) op.bank op.addrs none (s.setBusy none)
          = (⟨[v], 1, none⟩, countCorrected (storeWord op.bank addr v (s.setBusy none))) := by
        rw [haddrs, readWords_single_data (readAccess_corrected (s := s.setBusy none) hp hc)]
      have htouch := CheckTouch.storeCorrected op.bank addr v (s.setBusy none)
      refine exec_portOperationEnd_of_running h (portRun_read hw hread) ?_
      rw [endPortOp_lockedRead htag, lockAfter_lockedRead_okay (by rw [htouch.device]; exact hrun), hw,
        deliver_words hs]
      have hport : ((countCorrected (storeWord op.bank addr v (s.setBusy none))).setLock (some ⟨p, addr⟩)).port p
          = s.port p := by
        unfold State.port
        rw [ports_setLock]
        exact (htouch.port p).trans (congrArg (Pair.get · p) (ports_setBusy s none))
      exact (giveAnswer_okay ..).trans (by rw [hport]; rfl)
    · exact exec_lockedRead_refused h hw htag haddrs (readAccess_poisoned hp hc) rfl
    · exact exec_lockedRead_refused h hw htag haddrs (readAccess_uncorrectable hp hc) rfl
  · have hwrite : portRun p op none (s.setBusy none)
        = (⟨[], 1, none⟩, storeWord op.bank addr v (s.setBusy none)) := by
      rw [portRun_write hw hs, haddrs, hdata, writeWords_none]
      rfl
    refine exec_portOperationEnd_of_running h hwrite ?_
    rw [endPortOp_writeHalf htag, hw]
    rfl

/-- Settles O17: the expiry by the phase of the access. -/
theorem holdExpiryAnswered : Obligations.HoldExpiryAnswered := by
  have hexec : ∀ {s t : State} {p : Port}, s.pinAsserted = false → (s.port p).hold = .due → expire p s = some t →
      exec (.holdExpired p) s = .next (settle s t) :=
    fun hpin hdue ht => next_event_of_some hpin ((holdExpired_of_due hdue).trans ht)
  refine ⟨fun s p a hpin hdue hph => hexec hpin hdue ?_, fun s p a c ch hpin hdue hph hc => hexec hpin hdue ?_,
    fun s p a op hpin hdue hph => hexec hpin hdue ?_, fun s p tag h => releaseKeptBack_other h,
    fun s p a op c i hph hin => ?_, fun s p a op hph => next_event_of_none (holdExpired_of_granted hph)⟩
  · rcases hph with hph | ⟨c, off, hph⟩ | ⟨op, c, i, hph⟩ <;> simp only [expire, hph]
  · simp only [expire, hph, dropWaiting_of_some hc]
  · simp only [expire, hph]
  · rw [releaseKeptBack_commitWord hph, putLast_of_inService hin]

end Sys2Proof.Proofs
end

section
/-! PROOF. The end of a port's operation, the classes of a read, the check code, and the writes of protected banks. -/

namespace Sys2Proof.Machine

open Sys2Proof

/-! ## Reads, word by word -/

/-- The result of a read once a word before it has been delivered. -/
def OpResult.after (d : Word) (r : OpResult) : OpResult :=
  ⟨d :: r.data, r.done + 1, r.fault⟩

/-- A word that reads well is followed by the rest. -/
theorem readWords_cons_data {src : Source} {b : BankId} {addr : Nat} {rest : List Nat} {bud bud1 : Option Nat}
    {s u : State} {d : Word} (h : readAccess src b addr bud s = (.data d, bud1, u)) :
    readWords src b (addr :: rest) bud s
      = ((readWords src b rest bud1 u).1.after d, (readWords src b rest bud1 u).2) := by
  simp only [readWords, h, OpResult.after]

/-- A word that does not read well ends the read. -/
theorem readWords_cons_fault {src : Source} {b : BankId} {addr : Nat} {rest : List Nat} {bud bud1 : Option Nat}
    {s u : State} {out : ReadOut} {f : FaultCode} (h : readAccess src b addr bud s = (out, bud1, u))
    (hf : readFault out = some f) : readWords src b (addr :: rest) bud s = (⟨[], 0, some f⟩, u) := by
  rw [← hf]
  cases out with
  | data d => cases hf
  | uncorrectable raw => simp only [readWords, h]
  | poisoned raw => simp only [readWords, h]
  | timeout => simp only [readWords, h]

/-- Clean words before a bad one are delivered, and nothing else of them is left. -/
theorem readWords_clean_then_fault {src : Source} {b : BankId} {addr : Nat} {post : List Nat} {s u : State}
    {out : ReadOut} {f : FaultCode} (h : readAccess src b addr none s = (out, none, u))
    (hf : readFault out = some f) :
    ∀ pre : List Nat, (∀ x ∈ pre, s.classAt x = .clean) →
      readWords src b (pre ++ addr :: post) none s = (⟨pre.map (wordRead s.ram), pre.length, some f⟩, u) := by
  intro pre
  induction pre with
  | nil => exact fun _ => readWords_cons_fault h hf
  | cons x xs ih =>
    intro hclean
    rw [List.cons_append, readWords_cons_data (readAccess_clean fun _ => hclean x (List.mem_cons_self ..)),
      ih fun y hy => hclean y (List.mem_cons_of_mem _ hy)]
    rfl

/-! ## Reads of clean and corrected words -/

/-- A state in which words stand as in another. -/
structure SameWords (s t : State) (b : BankId) (addrs : List Nat) : Prop where
  isProtected : t.isProtected b = s.isProtected b
  word : ∀ x ∈ addrs, wordRead t.ram x = wordRead s.ram x ∧ t.classAt x = s.classAt x

/-- What a word of a class delivers, when it delivers anything. -/
def CheckClass.delivered (raw : Word) : CheckClass → Word
  | .corrected v => v
  | .clean => raw
  | .uncorrectable => raw
  | .poisoned => raw

/-- The kernel must not evaluate the class of a variable: `wellValue` is replaced unapplied, and the class by its
name before anything is compared. -/
theorem wellValue_of_class {s : State} {x : Nat} {cls : CheckClass} (h : s.classAt x = cls) :
    wellValue s x = cls.delivered (wordRead s.ram x) := by
  have e : wellValue = wellValue := rfl
  conv at e => rhs; delta wellValue
  rw [e]
  dsimp only
  rw [h]
  cases cls <;> rfl

theorem writtenBack_cons_clean {b : BankId} {s t : State} {x : Nat} {xs : List Nat} (h : s.classAt x = .clean) :
    writtenBack b s (x :: xs) t = writtenBack b s xs t := by
  unfold writtenBack
  rw [List.foldl_cons, h]

theorem writtenBack_cons_corrected {b : BankId} {s t : State} {x : Nat} {v : Word} {xs : List Nat}
    (h : s.classAt x = .corrected v) :
    writtenBack b s (x :: xs) t = writtenBack b s xs (countCorrected (storeWord b x v t)) := by
  unfold writtenBack
  rw [List.foldl_cons, h]

/-- Counting a corrected word leaves the memory and the banks. -/
theorem countCorrected_memory (s : State) :
    (countCorrected s).ram = s.ram ∧ (countCorrected s).lanes = s.lanes ∧ (countCorrected s).banks = s.banks := by
  unfold countCorrected
  obtain ⟨g, hg⟩ := raiseBoth_touches .eccCorrected { s with ecc := { s.ecc with corrected := satInc s.ecc.corrected } }
  rw [hg]
  exact ⟨rfl, rfl, rfl⟩

theorem isProtected_countCorrected_storeWord (b d : BankId) (x : Nat) (v : Word) (s : State) :
    (countCorrected (storeWord b x v s)).isProtected d = s.isProtected d := by
  obtain ⟨-, -, hbanks⟩ := countCorrected_memory (storeWord b x v s)
  simp only [State.isProtected, State.bank, hbanks]
  rfl

/-- Writing a corrected word back leaves every word apart from it. -/
theorem word_countCorrected_storeWord {b : BankId} {x y : Nat} {v : Word} {s : State} (h : x + 4 ≤ y ∨ y + 4 ≤ x) :
    wordRead (countCorrected (storeWord b x v s)).ram y = wordRead s.ram y
      ∧ (countCorrected (storeWord b x v s)).classAt y = s.classAt y := by
  obtain ⟨hram, hlanes, -⟩ := countCorrected_memory (storeWord b x v s)
  have hword : wordRead (countCorrected (storeWord b x v s)).ram y = wordRead s.ram y := by
    rw [hram]
    exact wordRead_wordWrite_apart h.symm
  have hlane : cellRead (countCorrected (storeWord b x v s)).lanes y = cellRead s.lanes y := by
    rw [hlanes, storeWord]
    split
    · exact cellRead_cellWrite_ne (by omega) _
    · rfl
  exact ⟨hword, by rw [State.classAt, State.classAt, hword, hlane]⟩

theorem SameWords.countCorrected_storeWord {s t : State} {b : BankId} {x : Nat} {v : Word} {addrs : List Nat}
    (hapart : ∀ y ∈ addrs, x + 4 ≤ y ∨ y + 4 ≤ x) (h : SameWords s t b addrs) :
    SameWords s (countCorrected (storeWord b x v t)) b addrs := by
  obtain ⟨hprot, hword⟩ := h
  refine ⟨(isProtected_countCorrected_storeWord ..).trans hprot, fun y hy => ?_⟩
  obtain ⟨hram, hcls⟩ := word_countCorrected_storeWord (b := b) (v := v) (s := t) (hapart y hy)
  exact ⟨hram.trans (hword y hy).1, hcls.trans (hword y hy).2⟩

/-- Clean and corrected words are delivered, the corrected ones written back, and what follows finds the
words apart from them as they were. -/
theorem readWords_well {src : Source} {b : BankId} {s : State} (hp : s.isProtected b = true) (seen rest : List Nat) :
    ∀ (pre : List Nat) (t : State), wordsApart (pre ++ seen) → SameWords s t b (pre ++ seen) →
      (∀ x ∈ pre, readsWell s x) →
      SameWords s (writtenBack b s pre t) b seen
      ∧ ∀ (r : OpResult) (u : State), readWords src b rest none (writtenBack b s pre t) = (r, u) →
          readWords src b (pre ++ rest) none t = (⟨pre.map (wellValue s) ++ r.data, pre.length + r.done, r.fault⟩, u) := by
  intro pre
  induction pre with
  | nil =>
    intro t _ hsame _
    refine ⟨hsame, fun r u h => ?_⟩
    rw [List.nil_append, List.map_nil, List.nil_append, List.length_nil, Nat.zero_add]
    exact h
  | cons x xs ih =>
    intro t hapart hsame hwell
    obtain ⟨hx, hxs⟩ := List.pairwise_cons.1 hapart
    have hpt : t.isProtected b = true := hsame.isProtected.trans hp
    obtain ⟨hram, hcls⟩ := hsame.word x (List.mem_cons_self ..)
    have htail : SameWords s t b (xs ++ seen) := ⟨hsame.isProtected, fun y hy => hsame.word y (List.mem_cons_of_mem _ hy)⟩
    have hwells : ∀ y ∈ xs, readsWell s y := fun y hy => hwell y (List.mem_cons_of_mem _ hy)
    rcases hwell x (List.mem_cons_self ..) with hclean | ⟨v, hcorr⟩
    · have hback : writtenBack b s (x :: xs) t = writtenBack b s xs t :=
        writtenBack_cons_clean hclean
      have hvalue : wellValue s x = wordRead t.ram x := (wellValue_of_class hclean).trans hram.symm
      obtain ⟨hseen, hread⟩ := ih t hxs htail hwells
      rw [hback]
      refine ⟨hseen, fun r u h => ?_⟩
      rw [List.cons_append, readWords_cons_data (readAccess_clean fun _ => hcls.trans hclean), hread r u h, ← hvalue,
        List.length_cons, Nat.add_right_comm]
      rfl
    · have hback : writtenBack b s (x :: xs) t = writtenBack b s xs (countCorrected (storeWord b x v t)) :=
        writtenBack_cons_corrected hcorr
      have hvalue : wellValue s x = v := wellValue_of_class hcorr
      obtain ⟨hseen, hread⟩ := ih _ hxs (htail.countCorrected_storeWord hx) hwells
      rw [hback]
      refine ⟨hseen, fun r u h => ?_⟩
      rw [List.cons_append, readWords_cons_data (readAccess_corrected hpt (hcls.trans hcorr)), hread r u h, ← hvalue,
        List.length_cons, Nat.add_right_comm]
      rfl

/-! ## Words stored one after another -/

/-- Storing words changes the memory alone, and meets no other field. -/
theorem storeWords_setBusy (b : BankId) (o : Option Busy) :
    ∀ (l : List (Nat × Word)) (s : State),
      l.foldl (fun v e => storeWord b e.1 e.2 v) (s.setBusy o)
        = ({ s with
              ram := (l.foldl (fun v e => storeWord b e.1 e.2 v) s).ram
              lanes := (l.foldl (fun v e => storeWord b e.1 e.2 v) s).lanes } : State).setBusy o := by
  intro l
  induction l with
  | nil => exact fun _ => rfl
  | cons e rest ih => exact fun s => ih (storeWord b e.1 e.2 s)

/-- A byte outside the words stored reads as before. -/
theorem cellRead_storeWords {b : BankId} {x : Nat} :
    ∀ (l : List (Nat × Word)) (s : State), (∀ e ∈ l, x < e.1 ∨ e.1 + 4 ≤ x) →
      cellRead (l.foldl (fun v e => storeWord b e.1 e.2 v) s).ram x = cellRead s.ram x := by
  intro l
  induction l with
  | nil => exact fun _ _ => rfl
  | cons e rest ih =>
    intro s h
    exact (ih _ fun e he => h e (List.mem_cons_of_mem _ he)).trans
      (cellRead_wordWrite_outside (h e (List.mem_cons_self ..)))

/-! ## The end of an operation -/

/-- The end of a plain read, whatever it met. -/
theorem exec_plainRead {s t : State} {p : Port} {a : Access} {op : PortOp} {r : OpResult} (h : s.running p a op)
    (hw : op.write = false) (htag : op.tag = .plain)
    (hr : readWords (portSource p) op.bank op.addrs none (s.setBusy none) = (r, t)) :
    exec (.portOperationEnd p) s
      = .next (settle s (giveAnswer p a ⟨deliver op r.data, r.fault⟩ (faultAddress a r.done) a.locked t)) := by
  refine exec_portOperationEnd_of_running h (portRun_read hw hr) ?_
  rw [endPortOp_plain htag, hw]
  rfl

theorem deliver_map {op : PortOp} (f : Nat → Word) (l : List Nat) :
    deliver op (l.map f) = l.map (fun x => if op.size = 4 then f x else laneRead (f x) op.lane op.size) := by
  unfold deliver
  split
  · rfl
  · exact List.map_map ..

theorem answerOp_plain {p : Port} {a : Access} {op : PortOp} {r : OpResult} {s : State} (h : op.tag = .plain) :
    answerOp p a op r s
      = giveAnswer p a ⟨if op.write then [] else r.data, r.fault⟩ (faultAddress a r.done) a.locked s := by
  simp only [answerOp, h, lockedMark_plain]

/-- With nothing kept back on that slot, nothing is let go. -/
theorem releaseKeptBack_nothing {s : State} {p : Port} {c : ChanId} {i : Fin 8}
    (h : ∀ a op, (s.port (otherPort p)).phase ≠ .keptBack a op c i) : releaseKeptBack p (.commitWord c i) s = s := by
  unfold releaseKeptBack
  cases hphase : (s.port (otherPort p)).phase with
  | keptBack a op c' i' =>
    refine if_neg ?_
    rintro ⟨rfl, rfl⟩
    exact h a op hphase
  | _ => rfl

/-- The end of a commit's word 0 write. -/
theorem exec_commitWord {s u : State} {p : Port} {a : Access} {op : PortOp} {c : ChanId} {i : Fin 8} {addr : Nat}
    {v : Word} (h : s.running p a op) (hw : op.write = true) (hs : op.size = 4) (htag : op.tag = .commitWord c i)
    (haddrs : op.addrs = [addr]) (hdata : op.data = [v])
    (hu : u = (storeWord op.bank addr v (s.setBusy none)).setPort p
      { s.port p with phase := .idle, hold := .stopped, answer := some ⟨[], none⟩ }) :
    exec (.portOperationEnd p) s = .next (settle s (releaseKeptBack p (.commitWord c i) u)) := by
  have hrun : portRun p op none (s.setBusy none) = (⟨[], 1, none⟩, storeWord op.bank addr v (s.setBusy none)) := by
    rw [portRun_write hw hs, writeWords_none, haddrs, hdata]
    rfl
  refine exec_portOperationEnd_of_running h hrun ?_
  rw [endPortOp_commitWord htag, hw, hu]
  rfl

end Sys2Proof.Machine

namespace Sys2Proof.Proofs

open Sys2Proof Sys2Proof.Machine

/-- Settles O18: a read is followed word by word up to the first bad one, a write is its words stored in turn, and a
commit's word 0 write then lets the tag read behind it go. -/
theorem portOperationEnds : Obligations.PortOperationEnds := by
  unfold Obligations.PortOperationEnds
  refine ⟨?_, ?_, ?_, ?_, ?_, ?_, ?_⟩
  case refine_1 =>
    intro s p a op h hw htag hclean
    rw [exec_plainRead h hw htag (readWords_clean _ _ (s.setBusy none) op.addrs hclean), deliver_map]
    rfl
  case refine_2 =>
    intro s p a op h hw hs htag hlen
    refine ⟨_, ?_, rfl, ?_, ?_⟩
    · refine exec_portOperationEnd_of_running h ((portRun_write hw hs).trans (writeWords_none ..)) ?_
      rw [endPortOp_plain htag, hw, storeWords_setBusy]
      rfl
    · intro x hx
      exact cellRead_storeWords _ s fun e he => hx e.1 (List.of_mem_zip he).1
    · intro addr v haddrs hdata hwf
      rw [haddrs, hdata]
      exact wordRead_wordWrite_same hwf
  case refine_3 =>
    intro s p a op pre post addr h hw htag haddrs hp hclean
    refine ⟨fun hpois => ?_, fun hunc => ?_⟩
    · have hread := readWords_clean_then_fault (post := post)
        (readAccess_poisoned (src := portSource p) (s := s.setBusy none) hp hpois) rfl pre hclean
      rw [← haddrs] at hread
      rw [exec_plainRead h hw htag hread, deliver_map]
      cases p <;> rfl
    · have hread := readWords_clean_then_fault (post := post)
        (readAccess_uncorrectable (src := portSource p) (s := s.setBusy none) hp hunc) rfl pre hclean
      rw [← haddrs] at hread
      rw [exec_plainRead h hw htag hread, deliver_map]
      rfl
  case refine_4 =>
    intro s p a op addr v h hw htag haddrs hp hcorr
    have hread := readWords_single_data
      (readAccess_corrected (src := portSource p) (s := s.setBusy none) hp hcorr)
    rw [← haddrs] at hread
    rw [exec_plainRead h hw htag hread]
    unfold deliver
    split <;> rfl
  case refine_5 =>
    intro s p a op h hw htag hp hapart hwell
    obtain ⟨-, hread⟩ := readWords_well (src := portSource p) hp [] [] op.addrs (s.setBusy none)
      (by rwa [List.append_nil]) ⟨rfl, fun _ _ => ⟨rfl, rfl⟩⟩ hwell
    have hread := hread _ _ rfl
    rw [List.append_nil, List.append_nil] at hread
    rw [exec_plainRead h hw htag hread, deliver_map]
    rfl
  case refine_6 =>
    intro s t p a op pre post addr h hw htag haddrs hp hapart hwell ht
    subst ht
    obtain ⟨⟨hprot, hseen⟩, hread⟩ := readWords_well (src := portSource p) hp [addr] (addr :: post) pre (s.setBusy none)
      hapart ⟨rfl, fun _ _ => ⟨rfl, rfl⟩⟩ hwell
    obtain ⟨hram, hcls⟩ := hseen addr (List.mem_cons_self ..)
    rw [← haddrs] at hread
    have hprot := hprot.trans hp
    refine ⟨fun hpois => ?_, fun hunc => ?_⟩
    · have hbad := readAccess_poisoned (src := portSource p) hprot (hcls.trans hpois)
      rw [exec_plainRead h hw htag (hread _ _ (readWords_cons_fault hbad rfl)), List.append_nil, deliver_map]
      rfl
    · have hbad := readAccess_uncorrectable (src := portSource p) hprot (hcls.trans hunc)
      rw [exec_plainRead h hw htag (hread _ _ (readWords_cons_fault hbad rfl)), List.append_nil, deliver_map, hram]
      rfl
  case refine_7 =>
    intro s u p a op c i addr v h hw hs htag haddrs hdata hu
    have hother : u.port (otherPort p) = s.port (otherPort p) := by
      rw [hu, port_setPort_ne _ _ (otherPort_ne p)]
      rfl
    have hservice : ∀ b, u.inService b = s.inService b := fun b => by rw [hu]; rfl
    rw [exec_commitWord h hw hs htag haddrs hdata hu]
    refine ⟨fun a' o' hkept => ⟨fun hin => ?_, fun hout hplain => ?_⟩, fun hnone => ?_⟩
    · rw [releaseKeptBack_commitWord (by rw [hother, hkept]), putLast_of_inService (by rw [hservice, hin]), hother]
    · rw [releaseKeptBack_commitWord (by rw [hother, hkept]), putLast_of_outOfService (by rw [hservice, hout]),
        answerOp_plain hplain, unavailable_data]
      rfl
    · rw [releaseKeptBack_nothing (by rw [hother]; exact hnone)]

end Sys2Proof.Proofs
end

section
/-! PROOF. The classes of a read access, the check code, and the writes of protected banks. -/

namespace Sys2Proof.Machine

open Sys2Proof

/-! ## Counting -/

/-- An uncorrectable word counts in its bank and in the device, is offered to the capture, and may report a storm. -/
theorem countUncorrectable_eq (src : Source) (b : BankId) (addr : Nat) (s : State) :
    ∃ g, countUncorrectable src b addr s =
      { s.setBank b { s.bank b with ueCount := satInc (s.bank b).ueCount } with
        ecc := { s.ecc with uncorrectable := satInc s.ecc.uncorrectable }
        memCapture := offerMemFault s.memCapture ⟨addr, b, src, s.msCount⟩
        stormReports := if stormReached s b = true then s.stormReports ++ [b] else s.stormReports
        globalFlags := g } := by
  unfold countUncorrectable
  exact raiseBoth_touches .eccUncorrectable _

theorem offerMemFault_none {c : Capture MemFault} {r : MemFault} (h : c.record = none) :
    offerMemFault c r = ⟨some r, c.overflow⟩ := by
  simp only [offerMemFault, h]

theorem offerMemFault_some {c : Capture MemFault} {r : MemFault} (h : c.record ≠ none) :
    offerMemFault c r = ⟨c.record, satInc c.overflow⟩ := by
  obtain ⟨x, hx⟩ := Option.ne_none_iff_exists'.1 h
  simp only [offerMemFault, hx]

theorem stormReached_iff {s : State} {b : BankId} {cfg : BankConfig} (h : (s.bank b).config = some cfg) :
    stormReached s b = true ↔
      s.device ≠ .loading ∧ (s.bank b).service = .inService ∧ cfg.stormThreshold ≠ 0
        ∧ (s.bank b).ueCount ≠ 255 ∧ (s.bank b).ueCount + 1 = cfg.stormThreshold := by
  have hsat : ∀ x : BitVec 8, (x ≠ satInc x ∧ satInc x = cfg.stormThreshold) ↔ (x ≠ 255 ∧ x + 1 = cfg.stormThreshold) := by
    intro x
    unfold satInc
    by_cases hx : x = BitVec.allOnes 8
    · have hfull : x = 255 := hx
      rw [if_pos hx]
      exact ⟨fun h => absurd rfl h.1, fun h => absurd hfull h.1⟩
    · have hfull : x ≠ 255 := hx
      have hsucc : x ≠ x + 1 := by bv_omega
      rw [if_neg hx]
      exact ⟨fun h => ⟨hfull, h.2⟩, fun h => ⟨hsucc, h.2⟩⟩
  have hsat := hsat (s.bank b).ueCount
  simp only [stormReached, h, State.inService, Bool.and_eq_true, bne_iff_ne, beq_iff_eq, and_assoc, hsat]

/-! ## The check code -/

theorem ite_xor_ite (x y : Bool) (col : BitVec 7) :
    (if (x ^^ y) = true then col else 0) = (if x = true then col else 0) ^^^ (if y = true then col else 0) := by
  cases x <;> cases y <;> simp

theorem goodCodeFrom_xor (a b : Word) :
    ∀ (cols : List (BitVec 7)) (j : Nat),
      goodCodeFrom (a ^^^ b) cols j = goodCodeFrom a cols j ^^^ goodCodeFrom b cols j := by
  intro cols
  induction cols with
  | nil => exact fun _ => BitVec.xor_self.symm
  | cons col cols ih =>
    intro j
    simp only [goodCodeFrom, ih, BitVec.getLsbD_xor, ite_xor_ite]
    ac_rfl

theorem bitVec_xor_cancel_left {w : Nat} (a b : BitVec w) : a ^^^ (a ^^^ b) = b := by
  rw [← BitVec.xor_assoc, BitVec.xor_self, BitVec.zero_xor]

theorem bitVec_xor_cancel_right {w : Nat} (a b : BitVec w) : a ^^^ b ^^^ b = a := by
  rw [BitVec.xor_assoc, BitVec.xor_self, BitVec.xor_zero]

/-- The check code is linear. -/
theorem goodCode_xor (a b : Word) : goodCode (a ^^^ b) = goodCode a ^^^ goodCode b :=
  goodCodeFrom_xor a b dataColumns 0

/-! What a syndrome says. -/

theorem checkClass_of_zero {d : Word} {lane : BitVec 7} (h : goodCode d ^^^ lane = 0) : checkClass d lane = .clean := by
  simp only [checkClass, h, if_true]

theorem checkClass_of_checkColumn {d : Word} {lane syn : BitVec 7} (h : goodCode d ^^^ lane = syn) (h0 : syn ≠ 0)
    (hcheck : (columnIndex syn checkColumns 0).isSome = true) : checkClass d lane = .corrected d := by
  simp only [checkClass, h, if_neg h0, hcheck, if_true]

theorem checkClass_of_dataColumn {d : Word} {lane syn : BitVec 7} {j : Nat} (h : goodCode d ^^^ lane = syn)
    (h0 : syn ≠ 0) (hcheck : columnIndex syn checkColumns 0 = none) (hdata : columnIndex syn dataColumns 0 = some j) :
    checkClass d lane = .corrected (d ^^^ ((1 : Word) <<< j)) := by
  simp only [checkClass, h, if_neg h0, hcheck, Option.isSome_none, Bool.false_eq_true, if_false, hdata]

theorem checkClass_of_noColumn {d : Word} {lane syn : BitVec 7} (h : goodCode d ^^^ lane = syn)
    (h0 : syn ≠ 0) (hcheck : columnIndex syn checkColumns 0 = none) (hdata : columnIndex syn dataColumns 0 = none) :
    checkClass d lane = if syn = 0x3F then .poisoned else .uncorrectable := by
  simp only [checkClass, h, if_neg h0, hcheck, Option.isSome_none, Bool.false_eq_true, if_false, hdata, poisonSyndrome]

/-! Every column has an odd number of bits set, so the syndrome of two flipped bits is no column. -/

def oddWeightBelow (x : BitVec 7) : Nat → Bool
  | 0 => false
  | n + 1 => x.getLsbD n ^^ oddWeightBelow x n

def oddWeight (x : BitVec 7) : Bool := oddWeightBelow x 7

theorem oddWeightBelow_xor (x y : BitVec 7) :
    ∀ n, oddWeightBelow (x ^^^ y) n = (oddWeightBelow x n ^^ oddWeightBelow y n) := by
  intro n
  induction n with
  | zero => rfl
  | succ n ih =>
    simp only [oddWeightBelow, ih, BitVec.getLsbD_xor]
    cases x.getLsbD n <;> cases y.getLsbD n <;> simp

theorem oddWeight_xor (x y : BitVec 7) : oddWeight (x ^^^ y) = (oddWeight x ^^ oddWeight y) :=
  oddWeightBelow_xor x y 7

theorem columnIndex_of_even {syn : BitVec 7} (hs : oddWeight syn = false) :
    ∀ (cols : List (BitVec 7)) (j : Nat), (∀ col ∈ cols, oddWeight col = true) → columnIndex syn cols j = none := by
  intro cols
  induction cols with
  | nil => exact fun _ _ => rfl
  | cons col cols ih =>
    intro j h
    have hne : col ≠ syn := by
      rintro rfl
      exact absurd (h col (List.mem_cons_self ..)) (by rw [hs]; decide)
    rw [columnIndex, if_neg hne]
    exact ih _ fun x hx => h x (List.mem_cons_of_mem _ hx)

theorem oddWeight_dataColumns : ∀ col ∈ dataColumns, oddWeight col = true :=
  List.all_eq_true.1 (by decide)

theorem oddWeight_checkColumns : ∀ col ∈ checkColumns, oddWeight col = true :=
  List.all_eq_true.1 (by decide)

/-- The column of each position, found in its list alone. -/
theorem goodCode_dataBit : ∀ j : Fin 32,
    columnIndex (goodCode (dataBit j.val)) dataColumns 0 = some j.val
      ∧ columnIndex (goodCode (dataBit j.val)) checkColumns 0 = none
      ∧ goodCode (dataBit j.val) ≠ 0 ∧ oddWeight (goodCode (dataBit j.val)) = true := by
  decide

theorem columnIndex_checkBit : ∀ i : Fin 7,
    (columnIndex (checkBit i.val) checkColumns 0).isSome = true ∧ checkBit i.val ≠ 0
      ∧ oddWeight (checkBit i.val) = true := by
  decide

theorem checkBit_pair : ∀ i j : Fin 7, i ≠ j →
    checkBit i.val ^^^ checkBit j.val ≠ 0 ∧ checkBit i.val ^^^ checkBit j.val ≠ 0x3F := by
  decide

theorem shift_eq_dataBit : ∀ j : Fin 32, (1 : Word) <<< j.val = dataBit j.val := by decide

/-- Two different columns leave a syndrome that is no column: refused. -/
theorem checkClass_of_twoColumns {d : Word} {lane x y : BitVec 7} (h : goodCode d ^^^ lane = x ^^^ y) (hne : x ≠ y)
    (hx : oddWeight x = true) (hy : oddWeight y = true) :
    checkClass d lane = if x ^^^ y = 0x3F then .poisoned else .uncorrectable := by
  have heven : oddWeight (x ^^^ y) = false := by rw [oddWeight_xor, hx, hy]; rfl
  exact checkClass_of_noColumn h (fun h0 => hne (BitVec.xor_eq_zero_iff.1 h0))
    (columnIndex_of_even heven _ _ oddWeight_checkColumns) (columnIndex_of_even heven _ _ oddWeight_dataColumns)

/-! ## Sub-word writes -/

theorem portRun_subWord {p : Port} {op : PortOp} {addr : Nat} {v : Word} {s : State} (hw : op.write = true)
    (hs : op.size ≠ 4) (haddrs : op.addrs = [addr]) (hdata : op.data = [v]) :
    portRun p op none s = subWordWrite (portSource p) op.bank addr op.lane op.size v none s := by
  simp only [portRun, hw, if_true, if_neg hs, haddrs, hdata, List.headD_cons]

theorem faultAddress_single {a : Access} (h : a.burst = none) (n : Nat) : faultAddress a n = a.addr := by
  simp only [faultAddress, h, Option.isSome_none, Bool.false_eq_true, if_false]

end Sys2Proof.Machine

namespace Sys2Proof.Proofs

open Sys2Proof Sys2Proof.Machine

/-- Settles O19, by the class of the word read; the storm by what a saturating increase does. -/
theorem readAccessByClass : Obligations.ReadAccessByClass := by
  refine ⟨fun s src b addr hp => ⟨fun hclean => ?_, fun v hcorr => ?_, fun hunc => ?_, fun hpois => ⟨?_, ?_⟩⟩,
    fun s b cfg hcfg => stormReached_iff hcfg⟩
  · exact readAccess_clean fun _ => hclean
  · exact readAccess_corrected hp hcorr
  · refine ⟨_, readAccess_uncorrectable hp hunc, ?_⟩
    obtain ⟨g, hg⟩ := countUncorrectable_eq src b addr (storePoison addr (wordRead s.ram addr) s)
    have hflag : ∀ l, (countUncorrectable src b addr (storePoison addr (wordRead s.ram addr) s)).globalStage l
        GlobalFlag.eccUncorrectable.bit ≠ .clear := fun l => raiseBoth_sets .eccUncorrectable _ l
    refine ⟨?_, ?_, ?_, ?_, fun hnone => ?_, fun hsome => ?_, ?_, hflag⟩
    all_goals rw [hg]
    · rfl
    · rfl
    · rfl
    · exact congrArg Bank.ueCount (bank_setBank_same (storePoison addr (wordRead s.ram addr) s) b _)
    · exact offerMemFault_none hnone
    · exact offerMemFault_some hsome
    · rfl
  · rintro (rfl | rfl) <;> exact readAccess_poisoned hp hpois
  · intro h0 h1
    rw [readAccess_poisoned hp hpois]
    cases src with
    | port0 => exact absurd rfl h0
    | port1 => exact absurd rfl h1
    | copy => rfl
    | scrub => rfl
    | probe => rfl

/-- Settles O20: the code is linear, so the syndrome is the exclusive OR of the columns of the flipped bits. -/
theorem checkCode : Obligations.CheckCode := by
  refine ⟨fun d => ⟨checkClass_of_zero (BitVec.xor_self ..), fun j => ?_, fun i => ?_, ?_, rfl⟩,
    fun d => ⟨fun i j hij => ?_, fun i j => ?_, fun i j hij => ?_⟩⟩
  · obtain ⟨hdata, hcheck, h0, -⟩ := goodCode_dataBit j
    have hsyn : goodCode (d ^^^ dataBit j.val) ^^^ goodCode d = goodCode (dataBit j.val) := by
      rw [goodCode_xor, BitVec.xor_comm, bitVec_xor_cancel_left]
    rw [checkClass_of_dataColumn hsyn h0 hcheck hdata, shift_eq_dataBit, bitVec_xor_cancel_right]
  · obtain ⟨hcheck, h0, -⟩ := columnIndex_checkBit i
    exact checkClass_of_checkColumn (bitVec_xor_cancel_left ..) h0 hcheck
  · have hsyn : goodCode d ^^^ poisonMarker d = poisonSyndrome := bitVec_xor_cancel_left ..
    rw [checkClass_of_noColumn hsyn (by decide) (by decide) (by decide)]
    rfl
  · obtain ⟨hi, -, -, hiodd⟩ := goodCode_dataBit i
    obtain ⟨hj, -, -, hjodd⟩ := goodCode_dataBit j
    refine checkClass_of_twoColumns ?_ (fun h => hij ?_) hiodd hjodd
    · rw [goodCode_xor, goodCode_xor, BitVec.xor_comm, BitVec.xor_assoc, bitVec_xor_cancel_left]
    · rw [h, hj] at hi
      exact Fin.ext (Option.some.inj hi).symm
  · obtain ⟨-, hi, -, hiodd⟩ := goodCode_dataBit i
    obtain ⟨hj, -, hjodd⟩ := columnIndex_checkBit j
    refine checkClass_of_twoColumns ?_ (fun h => ?_) hiodd hjodd
    · rw [goodCode_xor, BitVec.xor_comm (goodCode d) (goodCode _), BitVec.xor_assoc, bitVec_xor_cancel_left]
    · rw [h] at hi
      rw [hi] at hj
      cases hj
  · obtain ⟨-, -, hiodd⟩ := columnIndex_checkBit i
    obtain ⟨-, -, hjodd⟩ := columnIndex_checkBit j
    obtain ⟨h0, h3f⟩ := checkBit_pair i j hij
    refine (checkClass_of_twoColumns ?_ (fun h => h0 ?_) hiodd hjodd).trans (if_neg h3f)
    · rw [BitVec.xor_assoc, bitVec_xor_cancel_left]
    · rw [h]
      exact BitVec.xor_self

/-- Settles O21, by the check code and the class of the word; a full-word write stores good code beside its word. -/
theorem writesToProtectedBanks : Obligations.WritesToProtectedBanks := by
  refine ⟨?_, fun s src b addr lane size v => ⟨fun hp => ?_, fun hp hc => ?_, fun d hp hc => ?_, fun hp hc => ?_,
    fun hp hc => ?_⟩, ?_⟩
  · intro s p a op addr v r t h hw hs htag haddrs hdata hburst hsub
    refine exec_portOperationEnd_of_running h ((portRun_subWord hw hs haddrs hdata).trans hsub) ?_
    rw [endPortOp_plain htag, hw, faultAddress_single hburst]
    rfl
  · unfold subWordWrite
    exact if_neg (by rw [hp]; decide)
  · rw [subWordWrite_protected hp, hc]
    rfl
  · rw [subWordWrite_protected hp, hc]
    rfl
  · rw [subWordWrite_protected hp, hc]
    rfl
  · rw [subWordWrite_protected hp, hc]
    rfl
  · rintro s b addr v ⟨hram, hlanes⟩ hp
    have hword : wordRead (storeWord b addr v s).ram addr = v := wordRead_wordWrite_same hram
    have hlane : cellRead (storeWord b addr v s).lanes addr = goodCode v := by
      rw [storeWord, if_pos hp]
      exact cellRead_cellWrite_same hlanes
    refine ⟨?_, hword⟩
    rw [State.classAt, hword, hlane]
    exact checkClass_of_zero (BitVec.xor_self ..)

end Sys2Proof.Proofs
end

section
/-! PROOF. The arbiter: its order, its grants, and the withdrawals on the way to one. -/

namespace Sys2Proof.Machine

open Sys2Proof

/-! ## The choice -/

theorem pick_of_probe {s : State} {b : BankId} (h : s.probeWaits b = true) (hfirst : ∀ d, d < b → s.probeWaits d = false) :
    pick s = some (.probe b) := by
  have hfind : bankIds.find? s.probeWaits = some b := by
    unfold bankIds
    match b with
    | 0 => simp [h]
    | 1 => simp [hfirst 0 (by decide), h]
    | 2 => simp [hfirst 0 (by decide), hfirst 1 (by decide), h]
    | 3 => simp [hfirst 0 (by decide), hfirst 1 (by decide), hfirst 2 (by decide), h]
  simp only [pick, hfind]

/-- With no probe waiting the choice is among the others. -/
theorem pick_of_noProbe {s : State} (h : ∀ b, s.probeWaits b = false) :
    pick s =
      if s.copyWaits = true ∧ s.arbiter.copyPass = 8 then some .copy
      else if s.mirrorWaits = true ∧ s.arbiter.mirrorPass = 8 then some .mirror
      else (pickPort s).or
        (if s.copyWaits = true then some .copy
         else if s.mirrorWaits = true then some .mirror
         else if s.scrubWaits = true then some .scrub
         else none) := by
  have hfind : bankIds.find? s.probeWaits = none := by
    simp [List.find?_eq_none, h]
  simp only [pick, hfind, Bool.and_eq_true, beq_iff_eq, passLimit]
  cases pickPort s <;> rfl

theorem pickPort_other {s : State} (h : s.portWaits (otherPort s.arbiter.lastPort) = true) :
    pickPort s = some (.port (otherPort s.arbiter.lastPort)) := by
  simp only [pickPort, h, if_true]

theorem pickPort_last {s : State} (h : s.portWaits (otherPort s.arbiter.lastPort) = false)
    (hl : s.portWaits s.arbiter.lastPort = true) : pickPort s = some (.port s.arbiter.lastPort) := by
  simp only [pickPort, h, hl, Bool.false_eq_true, if_true, if_false]

theorem pickPort_none {s : State} (h0 : s.portWaits .port0 = false) (h1 : s.portWaits .port1 = false) :
    pickPort s = none := by
  have h : ∀ p, s.portWaits p = false := fun p => by cases p <;> assumption
  simp only [pickPort, h, Bool.false_eq_true, if_false]

/-! ## The grants -/

theorem grantPort_of_atArbiter {s : State} {p : Port} {a : Access} {op : PortOp} (h : (s.port p).phase = .atArbiter a op) :
    grantPort p s =
      { s.setPort p { s.port p with phase := .granted a op, hold := .stopped } with
        arbiter :=
          ⟨some ⟨.port p, 0⟩, s.arbiter.lock, p,
            if s.copyWaits = true then min (s.arbiter.copyPass + 1) 8 else s.arbiter.copyPass,
            if s.mirrorWaits = true then min (s.arbiter.mirrorPass + 1) 8 else s.arbiter.mirrorPass⟩ } := by
  simp only [grantPort, h]
  rfl

theorem grantMirror_of_waiting {s : State} {off : Nat} {b : BankId} (h : s.mirror.request = .waiting off)
    (hb : s.bcbBank = some b) :
    grantMirror s =
      { s with
        mirror :=
          ⟨s.mirror.dirty.erase off, off,
            .inFlight ⟨off, b, s.bcbBase + 4 * off, mirrorWord s off, pendingBits s off⟩⟩
        arbiter := { s.arbiter with busy := some ⟨.mirror, 0⟩, mirrorPass := 0 } } := by
  simp only [grantMirror, h, hb]
  rfl

theorem grantCopy_granted {s : State} {j : CopyJob} (h : s.copy.state = .active j) (hc : jobCopying s j = true)
    (hclaim : j.flight = .writeWaiting → jobClaimed s j j.next = false) :
    grantCopy s =
      { s with
        copy := { s.copy with state := .active { j with flight := grantedFlight j.flight } }
        arbiter := { s.arbiter with busy := some ⟨.copy, 0⟩, copyPass := 0 } } := by
  have hguard : (decide (j.flight = .writeWaiting) && jobClaimed s j j.next) = false := by
    by_cases hf : j.flight = .writeWaiting
    · rw [hclaim hf, Bool.and_false]
    · rw [decide_eq_false hf, Bool.false_and]
  simp only [grantCopy, h, hc, Bool.not_true, hguard, Bool.false_eq_true, if_false]
  rfl

theorem grantCopy_claimed {s : State} {j : CopyJob} (h : s.copy.state = .active j) (hc : jobCopying s j = true)
    (hf : j.flight = .writeWaiting) (hclaim : jobClaimed s j j.next = true) :
    grantCopy s = copyAdvance { j with next := j.next + 1 } { s with arbiter := { s.arbiter with copyPass := 0 } } := by
  have hnext : grantCopy s = copyNext j (clearCopyPass s) := by
    simp only [grantCopy, h, hc, Bool.not_true, hf, decide_true, hclaim, Bool.and_self, Bool.false_eq_true, if_true,
      if_false]
  exact hnext

theorem grantCopy_aborted {s : State} {j : CopyJob} (h : s.copy.state = .active j) (hc : jobCopying s j = false) :
    grantCopy s =
      { s with
        copy := { s.copy with state := .active { j with flight := .none } }
        arbiter := { s.arbiter with copyPass := 0 } } := by
  simp only [grantCopy, h, hc, Bool.not_false, if_true]
  rfl

theorem grantCopy_draining {s : State} {j : CopyJob} (h : s.copy.state = .draining j) :
    grantCopy s =
      { s with copy := ⟨s.copy.queue, .idle, false⟩, arbiter := { s.arbiter with copyPass := 0 } } := by
  simp only [grantCopy, h]
  rfl

theorem grantProbe_granted {s : State} {b : BankId} {cfg : BankConfig} (hcfg : (s.bank b).config = some cfg)
    (h : (s.bank b).service = .probing) :
    grantProbe b s = (s.setBank b { s.bank b with probe := .inFlight }).setBusy
      (some ⟨.probe b (cfg.base + 4 * cfg.probeOffset), 0⟩) := by
  have hput : grantProbe b s = (s.setProbe b .inFlight).occupy (.probe b cfg.probeAddr) := by
    simp only [grantProbe, hcfg, h, if_true]
  exact hput

theorem grantProbe_withdrawn {s : State} {b : BankId} {cfg : BankConfig} (hcfg : (s.bank b).config = some cfg)
    (h : (s.bank b).service ≠ .probing) :
    grantProbe b s = s.setBank b { s.bank b with probe := .none } := by
  have hput : grantProbe b s = s.setProbe b .none := by
    simp only [grantProbe, hcfg, if_neg h]
  exact hput

theorem grantScrub_granted {s : State} {addr : Nat} {b : BankId} (h : s.scrub.position = some addr)
    (hb : s.bankOf addr = some b) :
    grantScrub s =
      { s with
        scrub := { s.scrub with state := .running .reading }
        arbiter := { s.arbiter with busy := some ⟨.scrub b addr, 0⟩ } } := by
  simp only [grantScrub, h, hb]
  rfl

/-! ## The step -/

theorem copyToDeal_iff {s : State} {j : CopyJob} :
    copyToDeal s = some j ↔ s.copy.state = .active j ∧ j.flight = .none ∧ jobCopying s j = true := by
  unfold copyToDeal
  cases hstate : s.copy.state with
  | active k =>
    simp only [EngineState.active.injEq]
    split
    · rename_i hk
      exact ⟨fun h => by cases h; exact ⟨rfl, hk⟩, fun h => by rw [h.1]⟩
    · rename_i hk
      exact ⟨fun h => (by cases h), fun h => absurd (h.1 ▸ h.2) hk⟩
  | idle => simp
  | ending k r => simp
  | draining k => simp

theorem copyToDeal_none_of_flight {s : State} {j : CopyJob} (h : s.copy.state = .active j) (hf : j.flight ≠ .none) :
    copyToDeal s = none := by
  simp only [copyToDeal, h, hf, false_and, if_false]

theorem copyToDeal_none_of_draining {s : State} {j : CopyJob} (h : s.copy.state = .draining j) :
    copyToDeal s = none := by
  simp only [copyToDeal, h]

/-- ARBITER_GRANT with no offset to deal with, and one grant. -/
theorem exec_arbiterGrant_once {s t : State} {x : Pick} (hs : s.pinAsserted = false) (hb : s.arbiter.busy = none)
    (hl : s.arbiter.lock = none) (hdeal : copyToDeal s = none) (hp : pick s = some x) (hc : carryOut x s = t)
    (hd : t.arbiter.busy.isSome = true ∨ pick t = none) : exec .arbiterGrant s = .next (settle s t) :=
  arbiterGrant_once hs hb hl (.inl (by rw [hp]; rfl)) (dealNext_of_none hdeal) hb hp hc hd

/-- ARBITER_GRANT after the engine has dealt with its next offset. -/
theorem exec_arbiterGrant_dealt {s u t : State} {j : CopyJob} {x : Pick} (hs : s.pinAsserted = false)
    (hb : s.arbiter.busy = none) (hl : s.arbiter.lock = none) (hdeal : copyToDeal s = some j)
    (hu : u = settle s (copyAdvance j s)) (hp : pick u = some x) (hc : carryOut x u = t)
    (hd : t.arbiter.busy.isSome = true ∨ pick t = none) : exec .arbiterGrant s = .next (settle u t) := by
  have hub : u.arbiter.busy = none := by
    obtain ⟨c, e, h⟩ := copyAdvance_touches j s
    rw [hu, arbiter_settle, h]
    exact hb
  exact arbiterGrant_once hs hb hl (.inr (by rw [hdeal]; rfl)) ((dealNext_of_some hdeal).trans hu.symm) hub hp hc hd

/-- ARBITER_GRANT after which nothing waits, whatever it dealt with. -/
theorem exec_arbiterGrant_dealt_none {s u : State} {j : CopyJob} (hs : s.pinAsserted = false)
    (hb : s.arbiter.busy = none) (hl : s.arbiter.lock = none) (hdeal : copyToDeal s = some j)
    (hu : u = settle s (copyAdvance j s)) (hp : pick u = none) : exec .arbiterGrant s = .next u := by
  refine execArbiterGrant_of_some hs ?_
  have hguard : (s.arbiter.busy.isNone && s.arbiter.lock.isNone && ((pick s).isSome || (copyToDeal s).isSome)) = true := by
    simp [hb, hl, hdeal]
  rw [arbiterGrant, if_pos hguard, dealNext_of_some hdeal, ← hu, grantLoop_done (.inr hp)]

/-- What dealing and a withdrawal leave of a waiting mirror write. -/
theorem grantMirror_of_same {s u : State} {off : Nat} {b : BankId} (hmirror : u.mirror.request = s.mirror.request)
    (hbase : u.bcbBase = s.bcbBase) (hbanks : u.banks = s.banks) (h : s.mirror.request = .waiting off)
    (hb : s.bcbBank = some b) :
    grantMirror u =
      { u with
        mirror :=
          ⟨u.mirror.dirty.erase off, off,
            .inFlight ⟨off, b, s.bcbBase + 4 * off, mirrorWord u off, pendingBits u off⟩⟩
        arbiter := { u.arbiter with busy := some ⟨.mirror, 0⟩, mirrorPass := 0 } } := by
  have hb' : u.bcbBank = some b := by
    rw [← hb]
    simp only [State.bcbBank, State.bankOf, State.bank, hbase, hbanks]
  rw [grantMirror_of_waiting (hmirror.trans h) hb', hbase]

end Sys2Proof.Machine

namespace Sys2Proof.Proofs

open Sys2Proof Sys2Proof.Machine

/-- Settles O22. -/
theorem grantOrder : Obligations.GrantOrder := by
  refine fun s => ⟨fun b h hfirst => pick_of_probe h hfirst, fun hnone => ?_⟩
  rw [pick_of_noProbe hnone]
  refine ⟨fun hw hp => if_pos ⟨hw, hp⟩, fun hncopy => ?_⟩
  rw [if_neg hncopy]
  refine ⟨fun hw hp => if_pos ⟨hw, hp⟩, fun hnmirror => ?_⟩
  rw [if_neg hnmirror]
  refine ⟨fun ho => ?_, fun ho hl => ?_, fun h0 h1 => ?_⟩
  · rw [pickPort_other ho]
    rfl
  · rw [pickPort_last ho hl]
    rfl
  · rw [pickPort_none h0 h1]
    rfl

/-- Settles O23: each grant by what its `carryOut` does, and a withdrawal by the grant that follows it. -/
theorem grants : Obligations.Grants := by
  unfold Obligations.Grants
  refine ⟨?port, ?busy, ?mirror, ?copy, ?probe, ?scrub, ?engine, fun s j => copyToDeal_iff, ?dealt, ?draining,
    fun s off b hr hb ho => grantMirror_leaves_set hr hb ho⟩
  case port =>
    intro s p a op hs hb hl hdeal hp hphase
    refine exec_arbiterGrant_once hs hb hl hdeal hp ((grantPort_of_atArbiter hphase).trans ?_) (.inl rfl)
    rw [hl]
  case busy =>
    intro s h
    have hnone : arbiterGrant s = none := by
      have hguard : ¬ (s.arbiter.busy.isNone && s.arbiter.lock.isNone
          && ((pick s).isSome || (copyToDeal s).isSome)) = true := by
        simp only [Bool.and_eq_true, Option.isNone_iff_eq_none, not_and]
        rintro ⟨hb, hl⟩
        rcases h with h | h
        · exact absurd hb h
        · exact absurd hl h
      exact if_neg hguard
    change Host.Outcome.next (if s.pinAsserted = true then s else (arbiterGrant s).getD s) = .next s
    rw [hnone]
    exact congrArg Host.Outcome.next (ite_self s)
  case mirror =>
    intro s off b hs hb hl hdeal hp hr hbank
    exact exec_arbiterGrant_once hs hb hl hdeal hp (grantMirror_of_waiting hr hbank) (.inl rfl)
  case copy =>
    intro s j hs hb hl hp hstate hc
    refine ⟨fun hf => ?_, fun hf hclaim => ?_⟩
    · refine exec_arbiterGrant_once hs hb hl (copyToDeal_none_of_flight hstate (by rw [hf]; decide)) hp
        ((grantCopy_granted hstate hc fun h => ?_).trans ?_) (.inl rfl)
      · rw [hf] at h
        cases h
      · rw [hf]
        rfl
    · refine exec_arbiterGrant_once hs hb hl (copyToDeal_none_of_flight hstate (by rw [hf]; decide)) hp
        ((grantCopy_granted hstate hc fun _ => hclaim).trans ?_) (.inl rfl)
      rw [hf]
      rfl
  case probe =>
    intro s b cfg hs hb hl hdeal hp hcfg
    exact ⟨fun h => exec_arbiterGrant_once hs hb hl hdeal hp (grantProbe_granted hcfg h) (.inl rfl),
      fun h hnext => exec_arbiterGrant_once hs hb hl hdeal hp (grantProbe_withdrawn hcfg h) (.inr hnext)⟩
  case scrub =>
    intro s addr b hs hb hl hdeal hp hpos hbank
    exact exec_arbiterGrant_once hs hb hl hdeal hp (grantScrub_granted hpos hbank) (.inl rfl)
  case engine =>
    exact fun s j => ⟨fun h hc hf hclaim => grantCopy_claimed h hc hf hclaim, fun h hc => grantCopy_aborted h hc,
      fun h => grantCopy_draining h⟩
  case dealt =>
    intro s u j hs hb hl hdeal hu
    have harb : u.arbiter = s.arbiter := by
      obtain ⟨c, e, h⟩ := copyAdvance_touches j s
      rw [hu, arbiter_settle, h]
    refine ⟨fun hp => exec_arbiterGrant_dealt_none hs hb hl hdeal hu hp, fun j' hp hstate hf hc => ?_,
      fun off b hp hr hbank => ?_⟩
    · refine exec_arbiterGrant_dealt hs hb hl hdeal hu hp ((grantCopy_granted hstate hc fun h => ?_).trans ?_) (.inl rfl)
      · rw [hf] at h
        cases h
      · rw [hf, harb]
        rfl
    · refine exec_arbiterGrant_dealt hs hb hl hdeal hu hp
        ((grantMirror_of_same (s := s) ?_ ?_ ?_ hr hbank).trans ?_) (.inl rfl)
      · obtain ⟨c, e, h⟩ := copyAdvance_touches j s
        rw [hu, h]
        rfl
      · obtain ⟨c, e, h⟩ := copyAdvance_touches j s
        rw [hu, h]
        rfl
      · obtain ⟨c, e, h⟩ := copyAdvance_touches j s
        rw [hu, h]
        rfl
      · rw [harb]
  case draining =>
    intro s u j hs hb hl hp hstate hu
    have hfirst : ∀ t, grantLoop 7 u = t → exec .arbiterGrant s = .next t := by
      intro t ht
      refine execArbiterGrant_of_some hs ?_
      have hguard : (s.arbiter.busy.isNone && s.arbiter.lock.isNone && ((pick s).isSome || (copyToDeal s).isSome))
          = true := by
        simp [hb, hl, hp]
      have hcarry : carryOut .copy s = _ := grantCopy_draining hstate
      rw [arbiterGrant, if_pos hguard, dealNext_of_none (copyToDeal_none_of_draining hstate), grantLoop_step hb hp,
        hcarry, ← hu, ht]
    refine ⟨fun hnone => hfirst u (grantLoop_done (.inr hnone) 7), fun off b hmir hr hbank => hfirst _ ?_⟩
    have hbusy : u.arbiter.busy = none := by
      rw [hu]
      exact hb
    exact grantLoop_once hbusy hmir (grantMirror_of_same (by rw [hu]; rfl) (by rw [hu]; rfl) (by rw [hu]; rfl) hr hbank)
      (.inl rfl) 6

end Sys2Proof.Proofs
end

section
/-! PROOF. Ready control: how an operation ends whose word access gets no ready. -/

namespace Sys2Proof.Machine

open Sys2Proof

theorem readyDue_iff {s : State} {b : BankId} {waits : List Nat} {n : Nat} :
    s.readyDue b waits n = true ↔
      ∃ cfg t, (s.bank b).config = some cfg ∧ cfg.readyTimeout = some t ∧ (∀ x ∈ waits, x ≤ t) ∧ waits.sum + t ≤ n := by
  unfold State.readyDue State.readyLimit
  cases hcfg : (s.bank b).config with
  | none => simp
  | some cfg => cases ht : cfg.readyTimeout <;> simp [readyExpired, ht]

/-! ## Accesses that get no ready -/

theorem readAccess_noReady (src : Source) (b : BankId) (addr : Nat) (s : State) :
    readAccess src b addr (some 0) s = (.timeout, some 0, s) := rfl

/-- A word that is rewritten when it is read. -/
def rewritten (s : State) (addr : Nat) : Prop :=
  (∃ v, s.classAt addr = .corrected v) ∨ s.classAt addr = .uncorrectable

/-- A rewrite that gets no ready leaves its word and counts nothing. -/
theorem readAccess_rewrite_noReady {src : Source} {b : BankId} {addr : Nat} {s : State} (hp : s.isProtected b = true)
    (h : rewritten s addr) : readAccess src b addr (some 1) s = (.timeout, some 0, s) := by
  have hread : readAccess src b addr (some 1) s = readClassed src b addr (s.classAt addr) (some 0) s := by
    unfold readAccess
    exact if_pos hp
  rcases h with ⟨v, h⟩ | h
  · rw [hread, h]
    rfl
  · rw [hread, h]
    rfl

/-- Clean words, and then a rewrite that gets no ready. -/
theorem readWords_rewrite_noReady {src : Source} {b : BankId} {addr : Nat} {post : List Nat} {s : State}
    (hp : s.isProtected b = true) (h : rewritten s addr) :
    ∀ pre : List Nat, (∀ x ∈ pre, s.classAt x = .clean) →
      readWords src b (pre ++ addr :: post) (some (pre.length + 1)) s
        = (⟨pre.map (wordRead s.ram), pre.length, some .timeout⟩, s) := by
  intro pre
  induction pre with
  | nil => exact fun _ => readWords_cons_fault (readAccess_rewrite_noReady hp h) rfl
  | cons x xs ih =>
    intro hclean
    rw [List.cons_append, List.length_cons,
      readWords_cons_data (readAccess_clean_some fun _ => hclean x (List.mem_cons_self ..)),
      ih fun y hy => hclean y (List.mem_cons_of_mem _ hy)]
    rfl

/-- A sub-word write that gets no ready leaves its word: at its first access, or at the second half of its
read-modify-write. -/
theorem subWordWrite_noReady {src : Source} {b : BankId} {addr lane size : Nat} {v : Word} {s : State} {waits : List Nat}
    (h : waits = [] ∨ (waits.length = 1 ∧ s.isProtected b = true ∧ s.classAt addr ≠ .poisoned)) :
    subWordWrite src b addr lane size v (some waits.length) s = (⟨[], 0, some .timeout⟩, s) := by
  rcases h with rfl | ⟨hlen, hp, hclass⟩
  · unfold subWordWrite
    split <;> rfl
  · have hmerge : subWordWrite src b addr lane size v (some waits.length) s
        = mergeClassed src b addr lane size v (s.classAt addr) (some 0) s := by
      rw [hlen]
      unfold subWordWrite
      exact if_pos hp
    rw [hmerge]
    generalize s.classAt addr = cls at hclass
    cases cls with
    | clean => rfl
    | corrected d => rfl
    | uncorrectable => rfl
    | poisoned => exact absurd rfl hclass

/-! ## READY_TIMEOUT -/

theorem exec_readyTimeout_of_ends {s t : State} {op : BusyOp} {b : BankId} {waits : List Nat} {n : Nat}
    (hop : s.operating) (hbusy : s.arbiter.busy = some ⟨op, n⟩) (hbank : busyBank op s = some b)
    (hdue : s.readyDue b waits n = true) (hends : timeoutEnds op waits.length (s.setBusy none) = some t) :
    exec (.readyTimeout waits) s = .next (settle s (if timeoutReported op s then reportTimeout b t else t)) := by
  refine next_event_of_some hop.1 ?_
  simp only [readyTimeout, hbusy, hbank, hdue, if_true, hends]

/-- The end of a port's operation, reported. -/
theorem exec_readyTimeout_port {s t u : State} {p : Port} {a : Access} {op : PortOp} {r : OpResult} {waits : List Nat}
    {n : Nat} (hop : s.operating) (hphase : (s.port p).phase = .granted a op)
    (hbusy : s.arbiter.busy = some ⟨.port p, n⟩) (hdue : s.readyDue op.bank waits n = true)
    (hrun : portRun p op (some waits.length) (s.setBusy none) = (r, t)) (hr : r.fault = some .timeout)
    (hu : endPortOp p a op r t = u) :
    exec (.readyTimeout waits) s
      = .next (settle s { u with timeoutReports := s.timeoutReports ++ [op.bank] }) := by
  have hends : timeoutEnds (.port p) waits.length (s.setBusy none) = some u := by
    have hphase' : ((s.setBusy none).port p).phase = .granted a op := hphase
    simp only [timeoutEnds, hphase', hrun, hr, if_true, hu]
  have hbank : busyBank (.port p) s = some op.bank := by simp only [busyBank, hphase]
  have hrep : timeoutReported (.port p) s = true := bne_iff_ne.2 hop.2
  have hreports : u.timeoutReports = s.timeoutReports := by
    have htouch := portRun_touches p op (some waits.length) (s.setBusy none)
    rw [hrun] at htouch
    obtain ⟨m, l, k, e, c, rp, g, htouch⟩ := htouch
    obtain ⟨x, g', cm, ns, d, lk, hend⟩ := endPortOp_touches p a op r t
    have htime : t.timeoutReports = s.timeoutReports := (congrArg State.timeoutReports htouch :)
    rw [← hu, hend, ← htime]
  rw [exec_readyTimeout_of_ends hop hbusy hbank hdue hends, hrep, reportTimeout, hreports]
  rfl

/-- The end of a plain operation, reported. -/
theorem exec_readyTimeout_plain {s t : State} {p : Port} {a : Access} {op : PortOp} {r : OpResult} {waits : List Nat}
    {n : Nat} (hop : s.operating) (hphase : (s.port p).phase = .granted a op)
    (hbusy : s.arbiter.busy = some ⟨.port p, n⟩) (hdue : s.readyDue op.bank waits n = true) (htag : op.tag = .plain)
    (hrun : portRun p op (some waits.length) (s.setBusy none) = (r, t)) (hr : r.fault = some .timeout) :
    exec (.readyTimeout waits) s
      = .next (settle s
          { giveAnswer p a ⟨if op.write then [] else r.data, some .timeout⟩ (faultAddress a r.done) a.locked t with
            timeoutReports := s.timeoutReports ++ [op.bank] }) :=
  exec_readyTimeout_port hop hphase hbusy hdue hrun hr ((endPortOp_plain htag).trans (by rw [hr]))

/-- The end of another requester's operation, reported. -/
theorem exec_readyTimeout_reported {s t : State} {op : BusyOp} {b : BankId} {waits : List Nat} {n : Nat}
    (hop : s.operating) (hbusy : s.arbiter.busy = some ⟨op, n⟩) (hbank : busyBank op s = some b)
    (hdue : s.readyDue b waits n = true) (hends : timeoutEnds op waits.length (s.setBusy none) = some t)
    (hrep : timeoutReported op s = true) (hreports : t.timeoutReports = s.timeoutReports) :
    exec (.readyTimeout waits) s = .next (settle s { t with timeoutReports := s.timeoutReports ++ [b] }) := by
  rw [exec_readyTimeout_of_ends hop hbusy hbank hdue hends, hrep, reportTimeout, hreports]
  rfl

/-- Neither a first access nor a rewrite that gets no ready changes anything. -/
theorem readAccess_timeout {src : Source} {b : BankId} {addr : Nat} {s : State} {waits : List Nat}
    (h : waits = [] ∨ (waits.length = 1 ∧ s.isProtected b = true ∧ rewritten s addr)) :
    readAccess src b addr (some waits.length) s = (.timeout, some 0, s) := by
  rcases h with rfl | ⟨hlen, hp, hclass⟩
  · rfl
  · rw [hlen, readAccess_rewrite_noReady hp hclass]

theorem copyRun_timeout {s : State} {j : CopyJob} {waits : List Nat}
    (h : (waits = [] ∧ (j.flight = .reading ∨ j.flight = .writing))
      ∨ (waits.length = 1 ∧ j.flight = .reading ∧ s.isProtected j.bank = true ∧ rewritten s j.sourceAddr)) :
    copyRun j (some waits.length) s = (.timeout, s) := by
  rcases h with ⟨rfl, h | h⟩ | ⟨hlen, h, hp, hclass⟩
  · simp only [copyRun, h]
    rfl
  · simp only [copyRun, h]
    rfl
  · simp only [copyRun, h, hlen, readAccess_rewrite_noReady hp hclass]

theorem deliver_nil (op : PortOp) : deliver op [] = [] := by
  unfold deliver
  split <;> rfl

end Sys2Proof.Machine

namespace Sys2Proof.Proofs

open Sys2Proof Sys2Proof.Machine

/-- Settles O24: for each requester, what its operation did under the budget of the accesses that got ready. -/
theorem readyTimeoutEndsOperation : Obligations.ReadyTimeoutEndsOperation := by
  unfold Obligations.ReadyTimeoutEndsOperation
  refine ⟨fun s b waits n => readyDue_iff, ?plain, ?subWord, ?single, ?burst, ?words, ?copy, ?mirror, ?scrub, ?probe,
    ?notDue⟩
  case plain =>
    intro s p a op waits n hop hphase hbusy hdue htag hlen
    refine ⟨fun hw hs hdata => ?_, fun hw hclean => ?_⟩
    · have hcut := writeWords_cut op.bank (op.addrs.zip op.data) waits.length (s.setBusy none)
        (by rw [List.length_zip, hdata, Nat.min_self]; exact hlen)
      rw [exec_readyTimeout_plain hop hphase hbusy hdue htag ((portRun_write hw hs).trans hcut) rfl, hw]
      rfl
    · have hcut := readWords_cut (portSource p) op.bank (s.setBusy none) op.addrs waits.length hlen hclean
      rw [exec_readyTimeout_plain hop hphase hbusy hdue htag (portRun_read hw hcut) rfl, hw, deliver_map]
      rfl
  case subWord =>
    intro s p a op waits n addr v hop hphase hbusy hdue htag hw hs haddrs hdata hburst hwaits
    have hrun : portRun p op (some waits.length) (s.setBusy none) = (⟨[], 0, some .timeout⟩, s.setBusy none) := by
      simp only [portRun, hw, if_true, if_neg hs, haddrs, hdata, List.headD_cons]
      exact subWordWrite_noReady hwaits
    rw [exec_readyTimeout_plain hop hphase hbusy hdue htag hrun rfl, hw, faultAddress_zero]
    rfl
  case single =>
    intro s p a op x n addr hop hphase hbusy hdue htag hw haddrs hburst hp hclass
    have hread : readWords (portSource p) op.bank op.addrs (some [x].length) (s.setBusy none)
        = (⟨[], 0, some .timeout⟩, s.setBusy none) := by
      rw [haddrs]
      exact readWords_cons_fault (readAccess_rewrite_noReady hp hclass) rfl
    refine exec_readyTimeout_port hop hphase hbusy hdue (portRun_read hw hread) rfl ?_
    rcases htag with htag | htag
    · rw [endPortOp_plain htag, hw, deliver_nil, faultAddress_zero]
      rfl
    · rw [endPortOp_lockedRead htag, hw, deliver_nil, faultAddress_zero]
      rfl
  case burst =>
    intro s p a op waits n pre post addr hop hphase hbusy hdue htag hw haddrs hp hclean hlen hclass
    have hread : readWords (portSource p) op.bank op.addrs (some waits.length) (s.setBusy none)
        = (⟨pre.map (wordRead s.ram), pre.length, some .timeout⟩, s.setBusy none) := by
      rw [haddrs, hlen]
      exact readWords_rewrite_noReady (s := s.setBusy none) hp hclass pre hclean
    rw [exec_readyTimeout_plain hop hphase hbusy hdue htag (portRun_read hw hread) rfl, hw, deliver_map]
    rfl
  case words =>
    intro s p a op n addr v hop hphase hbusy hdue hw hs haddrs hdata hburst
    have hrun : portRun p op (some ([] : List Nat).length) (s.setBusy none)
        = (⟨[], 0, some .timeout⟩, s.setBusy none) := by
      rw [portRun_write hw hs, haddrs, hdata]
      rfl
    refine ⟨fun htag => ?_, fun off htag hoff => ?_, fun htag => ?_, fun c i htag => ?_⟩
    · exact exec_readyTimeout_port hop hphase hbusy hdue hrun rfl (endPortOp_bcb_command htag)
    · exact exec_readyTimeout_port hop hphase hbusy hdue hrun rfl (endPortOp_bcb_word htag hoff)
    · refine exec_readyTimeout_port hop hphase hbusy hdue hrun rfl ((endPortOp_writeHalf htag).trans ?_)
      rw [hw, faultAddress_zero]
      rfl
    · refine exec_readyTimeout_port hop hphase hbusy hdue hrun rfl ((endPortOp_commitWord htag).trans ?_)
      rw [hw, faultAddress_zero]
      rfl
  case copy =>
    intro s j waits n hop hbusy hdue hwaits
    have hrun := copyRun_timeout (s := s.setBusy none) hwaits
    refine ⟨fun hstate => ?_, fun hstate => ?_⟩
    · refine exec_readyTimeout_reported hop hbusy (b := j.bank) ?_ hdue
        (t := (s.setBusy none).setEngine (.active { j with flight := .timedOut })) ?_ (bne_iff_ne.2 hop.2) rfl
      · simp only [busyBank, hstate, EngineState.job]
      · have hstate' : (s.setBusy none).copy.state = .active j := hstate
        simp only [timeoutEnds, hstate', hrun, if_true]
    · refine exec_readyTimeout_reported hop hbusy (b := j.bank) ?_ hdue
        (t := (s.setBusy none).setEngine (.draining { j with flight := .timedOut })) ?_ (bne_iff_ne.2 hop.2) rfl
      · simp only [busyBank, hstate, EngineState.job]
      · have hstate' : (s.setBusy none).copy.state = .draining j := hstate
        simp only [timeoutEnds, hstate', hrun, if_true]
  case mirror =>
    intro s w n hop hr hbusy hdue
    refine exec_readyTimeout_reported hop hbusy (b := w.bank) ?_ hdue
      (t := { s.setBusy none with mirror := { s.mirror with request := .timedOut w.off } }) ?_ (bne_iff_ne.2 hop.2) rfl
    · simp only [busyBank, hr]
    · have hr' : (s.setBusy none).mirror.request = .inFlight w := hr
      simp only [timeoutEnds, hr', List.length_nil, if_true]
      rfl
  case scrub =>
    intro s b addr n waits hop hbusy hdue hwaits
    refine exec_readyTimeout_reported hop hbusy rfl hdue
      (t := (s.setBusy none).setScrub { s.scrub with timedOut := some addr }) ?_ (bne_iff_ne.2 hop.2) rfl
    have hdev : (s.setBusy none).device ≠ .loading := hop.2
    simp only [timeoutEnds, readAccess_timeout (s := s.setBusy none) hwaits, if_true, if_neg hdev]
    rfl
  case probe =>
    intro s b addr n waits hop hbusy hdue hwaits
    refine ⟨fun hprobe => ?_, fun hprobe => ?_⟩
    · refine (exec_readyTimeout_of_ends hop hbusy rfl hdue (t := (s.setBusy none).setProbe b .timedOut) ?_).trans rfl
      have hprobe' : ((s.setBusy none).bank b).probe = .inFlight := hprobe
      simp only [timeoutEnds, readAccess_timeout (s := s.setBusy none) hwaits, if_true, hprobe']
    · refine (exec_readyTimeout_of_ends hop hbusy rfl hdue (t := s.setBusy none) ?_).trans rfl
      have hprobe' : ((s.setBusy none).bank b).probe ≠ .inFlight := by
        change (s.bank b).probe ≠ .inFlight
        rw [hprobe]
        decide
      simp only [timeoutEnds, readAccess_timeout (s := s.setBusy none) hwaits, if_true, if_neg hprobe']
  case notDue =>
    intro s waits busy b hbusy hbank hdue
    refine congrArg Host.Outcome.next (event_of_none ?_)
    simp only [readyTimeout, hbusy, hbank, hdue, Bool.false_eq_true, if_false]

end Sys2Proof.Proofs
end

section
/-! PROOF. The window accesses taken at a channel: the writer's writes, reads and commits, the reader's reads and
releases, and the checks before them. -/

namespace Sys2Proof.Machine

open Sys2Proof

/-! ## Kinds -/

theorem windowKind_writerDataRead {cfg : ChannelConfig} {p : Port} {a : Access} {off : Nat} (hp : p = cfg.writer)
    (hw : a.write = false) (hoff : off ≠ 0) : windowKind cfg p a off = .writerDataRead := by
  simp only [windowKind, hp, hw, hoff, Bool.false_eq_true, if_true, if_false]

theorem windowKind_writerTagRead {cfg : ChannelConfig} {p : Port} {a : Access} (hp : p = cfg.writer)
    (hw : a.write = false) : windowKind cfg p a 0 = .writerTagRead := by
  simp only [windowKind, hp, hw, Bool.false_eq_true, if_true, if_false]

theorem windowKind_readerTagRead {cfg : ChannelConfig} {p : Port} {a : Access} (hp : p ≠ cfg.writer)
    (hw : a.write = false) : windowKind cfg p a 0 = .readerTagRead := by
  simp only [windowKind, hp, hw, Bool.false_eq_true, if_true, if_false]

theorem windowKind_readerDataRead {cfg : ChannelConfig} {p : Port} {a : Access} {off : Nat} (hp : p ≠ cfg.writer)
    (hw : a.write = false) (hoff : off ≠ 0) : windowKind cfg p a off = .readerDataRead := by
  simp only [windowKind, hp, hw, hoff, Bool.false_eq_true, if_false]

theorem windowKind_readerDataWrite {cfg : ChannelConfig} {p : Port} {a : Access} {off : Nat} (hp : p ≠ cfg.writer)
    (hw : a.write = true) (hoff : off ≠ 0) : windowKind cfg p a off = .readerDataWrite := by
  simp only [windowKind, hp, hw, hoff, if_true, if_false]

/-! ## The steps -/

theorem exec_writerDataRead_of_handed {s : State} {p : Port} {a : Access} {c : ChanId} {off : Nat} {ch : Channel}
    (h : s.handed p a c off ch) (hp : p = ch.config.writer) (hw : a.write = false) (hoff : off ≠ 0) :
    exec (.writerDataRead p) s = .next (settle s (takeWriterRead p a c ch off s)) :=
  congrArg Host.Outcome.next (event_takeWindow_of_handed takeWriterRead h (windowKind_writerDataRead hp hw hoff)
    (fun h0 => absurd h0 hoff) (by decide))

theorem exec_writerTagRead_of_handed {s : State} {p : Port} {a : Access} {c : ChanId} {ch : Channel}
    (h : s.handed p a c 0 ch) (hp : p = ch.config.writer) (hw : a.write = false) (hform : isSingleWord a = true) :
    exec (.writerTagRead p) s = .next (settle s (takeWriterTagRead p a c ch 0 s)) :=
  congrArg Host.Outcome.next (event_takeWindow_of_handed takeWriterTagRead h (windowKind_writerTagRead hp hw)
    (fun _ => hform) (by decide))

theorem exec_readerTagRead_of_handed {s : State} {p : Port} {a : Access} {c : ChanId} {ch : Channel}
    (h : s.handed p a c 0 ch) (hp : p ≠ ch.config.writer) (hw : a.write = false) (hform : isSingleWord a = true) :
    exec (.readerTagRead p) s = .next (settle s (takeReaderTagRead p a c ch 0 s)) :=
  congrArg Host.Outcome.next (event_takeWindow_of_handed takeReaderTagRead h (windowKind_readerTagRead hp hw)
    (fun _ => hform) (by decide))

theorem exec_readerDataRead_of_handed {s : State} {p : Port} {a : Access} {c : ChanId} {off : Nat} {ch : Channel}
    (h : s.handed p a c off ch) (hp : p ≠ ch.config.writer) (hw : a.write = false) (hoff : off ≠ 0) :
    exec (.readerDataRead p) s = .next (settle s (takeReaderDataRead p a c ch off s)) :=
  congrArg Host.Outcome.next (event_takeWindow_of_handed takeReaderDataRead h (windowKind_readerDataRead hp hw hoff)
    (fun h0 => absurd h0 hoff) (by decide))

/-- A tag-word access that is not a single word is refused, whatever its kind. -/
theorem event_takeWindow_malformed {s : State} {p : Port} {a : Access} {c : ChanId} {ch : Channel} {kind : WindowKind}
    (f : WindowTake) (h : s.handed p a c 0 ch) (hkind : windowKind ch.config p a 0 = kind)
    (hform : isSingleWord a = false) : event s (takeWindow kind p f) = settle s (answerFault p a .form s) := by
  obtain ⟨hpin, hphase, hch, hon, hlen⟩ := h
  refine event_of_some hpin ?_
  simp only [takeWindow, hphase, hch, hkind, if_true, if_neg hon, if_neg (Nat.not_lt.2 hlen), hform, Bool.not_false,
    decide_true, Bool.and_self]

/-- A reader's write of data words is refused. -/
theorem event_takeWindow_role {s : State} {p : Port} {a : Access} {c : ChanId} {off : Nat} {ch : Channel}
    (f : WindowTake) (h : s.handed p a c off ch) (hp : p ≠ ch.config.writer) (hw : a.write = true) (hoff : off ≠ 0) :
    event s (takeWindow .readerDataWrite p f) = settle s (answerFault p a .role s) := by
  obtain ⟨hpin, hphase, hch, hon, hlen⟩ := h
  refine event_of_some hpin ?_
  simp only [takeWindow, hphase, hch, windowKind_readerDataWrite hp hw hoff, if_true, if_neg hon,
    if_neg (Nat.not_lt.2 hlen), hoff, decide_false, Bool.false_and, Bool.false_eq_true, if_false]

/-! ## The writer's filling slot -/

theorem withFilling_of_filling {s : State} {c : ChanId} {ch : Channel} {i : Fin 8} (p : Port) (a : Access)
    (k : Channel → Fin 8 → State → State) (hfill : ch.filling = some i) : withFilling p a c ch s k = k ch i s := by
  simp only [withFilling, hfill]

/-- A write that needs a filling slot goes on in the one opened for it. -/
theorem withFilling_of_opened {s t : State} {c : ChanId} {ch ch1 : Channel} {i : Fin 8} (p : Port) (a : Access)
    (k : Channel → Fin 8 → State → State) (hfill : ch.filling = none) (hopen : openSlot c ch s = some t)
    (hch : t.chan c = some ch1) (hfill1 : ch1.filling = some i) : withFilling p a c ch s k = k ch1 i t := by
  simp only [withFilling, hfill, hopen, hch, hfill1]

theorem commitInto_of_noCopy {s : State} {p : Port} {a : Access} {c : ChanId} {ch : Channel} {i : Fin 8}
    (h : ch.copy = .none) : commitInto p a c ch i s = carryOutCommit p a c ch i (beatData a 0) s := by
  simp only [commitInto, h]

/-- A commit behind a copy waits. -/
theorem commitInto_of_copy {s : State} {p : Port} {a : Access} {c : ChanId} {ch : Channel} {i : Fin 8}
    (h : ch.copy ≠ .none) :
    commitInto p a c ch i s
      = (s.setChan c (some { ch with waiting := some (beatData a 0) })).setPort p
          { s.port p with phase := .waitingCommit a c } := by
  unfold commitInto
  cases hcopy : ch.copy with
  | none => exact absurd hcopy h
  | queued => rfl
  | copying n => rfl

theorem mem_addOffsets (off x : Nat) (set : List Nat) :
    ∀ n, x ∈ addOffsets off n set ↔ x ∈ set ∨ (off ≤ x ∧ x < off + n) := by
  intro n
  induction n with
  | zero => exact ⟨Or.inl, fun h => h.resolve_right fun hx => absurd hx.2 (Nat.not_lt.2 hx.1)⟩
  | succ n ih =>
    have hstep : addOffsets off (n + 1) set = insertOffset (off + n) (addOffsets off n set) := by
      simp only [addOffsets, List.range_succ, List.foldl_append, List.foldl_cons, List.foldl_nil]
    have hrange : x = off + n ∨ (off ≤ x ∧ x < off + n) ↔ off ≤ x ∧ x < off + (n + 1) := by omega
    rw [hstep, mem_insertOffset, ih, ← hrange]
    exact or_left_comm

/-! ## Opening -/

theorem find_slotIds {f : Fin 8 → Bool} {i : Fin 8} (h : f i = true) (hfirst : ∀ j, j < i → f j = false) :
    slotIds.find? f = some i := by
  have hsplit : ∀ i : Fin 8, slotIds = slotIds.take i.val ++ i :: slotIds.drop (i.val + 1) := by decide
  have hlt : ∀ i j : Fin 8, j ∈ slotIds.take i.val → j < i := by decide
  refine List.find?_eq_some_iff_append.2 ⟨h, _, _, hsplit i, fun j hj => ?_⟩
  rw [hfirst j (hlt i j hj)]
  rfl

theorem find_slotIds_none {f : Fin 8 → Bool} (h : ∀ i, f i = false) : slotIds.find? f = none :=
  List.find?_eq_none.2 fun i _ => by rw [h i]; decide

theorem openSlot_of_takable {s : State} {c : ChanId} {ch : Channel} {i : Fin 8} (h : ch.takable i = true)
    (hfirst : ∀ j, j < i → ch.takable j = false) : openSlot c ch s = some (openFree c ch i s) := by
  simp only [openSlot, find_slotIds h hfirst]

theorem openSlot_of_queue {s : State} {c : ChanId} {ch : Channel} (h : ∀ i, ch.takable i = false)
    (hmode : ch.config.mode = .queue) : openSlot c ch s = none := by
  simp only [openSlot, find_slotIds_none h, hmode]

theorem openSlot_of_latest_none {s : State} {c : ChanId} {ch : Channel} (h : ∀ i, ch.takable i = false)
    (hmode : ch.config.mode = .latest) (hdrop : ∀ i, ch.droppable i = false) : openSlot c ch s = none := by
  simp only [openSlot, find_slotIds_none h, hmode, find_slotIds_none hdrop]

theorem openSlot_of_droppable {s : State} {c : ChanId} {ch : Channel} {i : Fin 8} (h : ∀ i, ch.takable i = false)
    (hmode : ch.config.mode = .latest) (hdrop : ch.droppable i = true) (hfirst : ∀ j, j < i → ch.droppable j = false) :
    openSlot c ch s = some (raiseChannel c .dropped (s.setChan c (some (ch.dropFrame i)))) := by
  simp only [openSlot, find_slotIds_none h, hmode, find_slotIds hdrop hfirst]

theorem openFree_of_noCopy {s : State} {c : ChanId} {ch : Channel} {i : Fin 8} (h : ch.carrySource = none) :
    openFree c ch i s = s.setChan c (some (ch.startFilling i)) := by
  simp only [openFree, h]

/-- The source of the copy set up keeps its slot, marked. -/
theorem openFree_of_copy {s : State} {c : ChanId} {ch : Channel} {i n : Fin 8} (h : ch.carrySource = some n)
    (hn : n ≠ i) :
    openFree c ch i s =
      { s.setChan c (some
          { (ch.setSlot i (ch.slot i).opened).setSlot n { ch.slot n with copySource := true } with
            filling := some i, copy := .queued }) with
        copy := { s.copy with queue := s.copy.queue ++ [c] } } := by
  have hslot : (ch.startFilling i).slot n = ch.slot n := vector_get_set_ne _ _ hn
  simp only [openFree, h, hslot]
  rfl

/-! ## The writer's reads -/

theorem writerReadSlot_of_noCopy {ch : Channel} (i : Fin 8) (j : Nat) (h : ch.copy = .none) :
    ch.writerReadSlot i j = i := by
  simp only [Channel.writerReadSlot, h]

theorem writerReadSlot_of_queued {ch : Channel} (i : Fin 8) (j : Nat) {k : Fin 8} (h : ch.copy = .queued)
    (hk : ch.copySourceSlot = some k) :
    ch.writerReadSlot i j = if (ch.slot i).written.contains j then i else k := by
  simp only [Channel.writerReadSlot, h, hk, Option.getD_some]

theorem writerReadSlot_of_copying {ch : Channel} (i : Fin 8) (j : Nat) {k : Fin 8} {n : Nat} (h : ch.copy = .copying n)
    (hk : ch.copySourceSlot = some k) :
    ch.writerReadSlot i j = if (ch.slot i).written.contains j || decide (j < n) then i else k := by
  simp only [Channel.writerReadSlot, h, hk, Option.getD_some]

theorem takeWriterRead_of_filling {s : State} {p : Port} {a : Access} {c : ChanId} {ch : Channel} {off : Nat}
    {i : Fin 8} (h : ch.filling = some i) :
    takeWriterRead p a c ch off s = putWords p a (ch.writerReadAddrs i off (wordCount a)) [] .plain s := by
  simp only [takeWriterRead, h]

theorem takeWriterRead_of_frame {s : State} {p : Port} {a : Access} {c : ChanId} {ch : Channel} {off : Nat}
    {i : Fin 8} (h : ch.filling = none) (hi : ch.lastFrame = some i) :
    takeWriterRead p a c ch off s
      = putWords p a (wordsFrom (ch.config.slotAddr i + 4 * off) (wordCount a)) [] .plain s := by
  simp only [takeWriterRead, h, hi]

theorem takeWriterRead_of_nothing {s : State} {p : Port} {a : Access} {c : ChanId} {ch : Channel} {off : Nat}
    (h : ch.filling = none) (hi : ch.lastFrame = none) : takeWriterRead p a c ch off s = answerZero p a s := by
  simp only [takeWriterRead, h, hi]

theorem takeWriterTagRead_of_frame {s : State} {p : Port} {a : Access} {c : ChanId} {ch : Channel} {off : Nat}
    {i : Fin 8} (hi : ch.lastFrame = some i) :
    takeWriterTagRead p a c ch off s = putWords p a [ch.config.slotAddr i] [] .plain s := by
  simp only [takeWriterTagRead, hi]

theorem takeWriterTagRead_of_nothing {s : State} {p : Port} {a : Access} {c : ChanId} {ch : Channel} {off : Nat}
    (hi : ch.lastFrame = none) : takeWriterTagRead p a c ch off s = answerZero p a s := by
  simp only [takeWriterTagRead, hi]

theorem answerZero_of_single {s : State} {p : Port} {a : Access} (h : isSingleWord a = true) :
    answerZero p a s = giveAnswer p a ⟨[0], none⟩ a.addr a.locked s := by
  rw [answerZero, wordCount_of_single h]
  rfl

/-! ## The commit -/

theorem slot_placeFrame_latest {ch : Channel} (h : ch.config.mode = .latest) (i j : Fin 8) :
    (ch.placeFrame i).slot j = if ch.newest = some j ∧ ch.held ≠ .slot j then (ch.slot j).freed else ch.slot j := by
  have hholds : ∀ n, ch.holds n = true ↔ ch.held = .slot n := fun n => beq_iff_eq
  unfold Channel.placeFrame
  cases hnew : ch.newest with
  | none => simp [h, Channel.slot]
  | some n =>
    by_cases hn : ch.holds n = true
    · have hheld := (hholds n).1 hn
      simp only [h, hn, if_true, hheld]
      rw [if_neg (by rintro ⟨hj, hne⟩; exact hne (congrArg Held.slot (Option.some.inj hj)))]
      rfl
    · have hheld := fun e => hn ((hholds n).2 e)
      simp only [h, hn, Bool.false_eq_true, if_false]
      refine (ch.slot_setSlot n j _).trans ?_
      by_cases hj : j = n
      · subst hj
        rw [if_pos rfl, if_pos ⟨rfl, hheld⟩]
      · rw [if_neg hj, if_neg (by rintro ⟨e, -⟩; exact hj (Option.some.inj e).symm)]

theorem placeFrame_queue {ch : Channel} (h : ch.config.mode = .queue) (i : Fin 8) :
    ch.placeFrame i = { ch with committed := ch.committed ++ [i] } := by
  simp only [Channel.placeFrame, h]

/-- Placing a frame in LATEST names it the newest and touches slots beside it. -/
theorem placeFrame_latest {ch : Channel} (h : ch.config.mode = .latest) (i : Fin 8) :
    ∃ x, ch.placeFrame i = { ch with slots := x, newest := some i } := by
  unfold Channel.placeFrame
  cases hnew : ch.newest with
  | none => exact ⟨ch.slots, by simp only [h]⟩
  | some n =>
    by_cases hn : ch.holds n = true
    · exact ⟨ch.slots, by simp only [h, hn, if_true]⟩
    · exact ⟨_, by simp only [h, hn, Bool.false_eq_true, if_false]; rfl⟩

/-- Placing a frame touches slots, the newest and the list. -/
theorem placeFrame_touches (ch : Channel) (i : Fin 8) :
    ∃ x n l, ch.placeFrame i = { ch with slots := x, newest := n, committed := l } := by
  cases hmode : ch.config.mode with
  | queue => exact ⟨_, _, _, placeFrame_queue hmode i⟩
  | latest =>
    obtain ⟨x, h⟩ := placeFrame_latest hmode i
    exact ⟨_, _, _, h⟩

/-- What a commit writes beside the slots, whatever the mode. -/
theorem committing_fields (ch : Channel) (i : Fin 8) (now : BitVec 32) :
    (ch.committing i now).frames = ch.frames + 1 ∧ (ch.committing i now).lastCommit = some now
      ∧ (ch.committing i now).filling = none ∧ (ch.committing i now).state = .live
      ∧ (ch.committing i now).deadline = startUnlessZero ch.config.freshness := by
  obtain ⟨x, n, l, h⟩ := placeFrame_touches ch i
  rw [Channel.committing, h]
  exact ⟨rfl, rfl, rfl, rfl, rfl⟩

/-- What it leaves. -/
theorem committing_keeps (ch : Channel) (i : Fin 8) (now : BitVec 32) :
    (ch.committing i now).held = ch.held ∧ (ch.committing i now).config = ch.config
      ∧ (ch.committing i now).copy = ch.copy ∧ (ch.committing i now).waiting = ch.waiting
      ∧ (ch.committing i now).dropped = ch.dropped ∧ (ch.committing i now).lost = ch.lost
      ∧ (ch.committing i now).blocked = ch.blocked ∧ (ch.committing i now).empty = ch.empty
      ∧ (ch.committing i now).bankUp = ch.bankUp ∧ (ch.committing i now).notices = ch.notices := by
  obtain ⟨x, n, l, h⟩ := placeFrame_touches ch i
  rw [Channel.committing, h]
  exact ⟨rfl, rfl, rfl, rfl, rfl, rfl, rfl, rfl, rfl, rfl⟩

theorem slot_committing (ch : Channel) (i j : Fin 8) (now : BitVec 32) :
    (ch.committing i now).slot j =
      if j = i then
        { (ch.placeFrame i).slot i with
          state := .committed, frame := some ((ch.placeFrame i).frames + 1), commitTime := some now, written := [] }
      else (ch.placeFrame i).slot j :=
  (ch.placeFrame i).slot_setSlot i j _

/-- The slot committed is written whole, whatever the placing did to it. -/
theorem slot_committing_same (ch : Channel) (i : Fin 8) (now : BitVec 32) :
    (ch.committing i now).slot i =
      { ch.slot i with state := .committed, frame := some (ch.frames + 1), commitTime := some now, written := [] } := by
  rw [slot_committing, if_pos rfl]
  cases hmode : ch.config.mode with
  | queue =>
    rw [placeFrame_queue hmode]
    rfl
  | latest =>
    have hslot := slot_placeFrame_latest hmode i i
    obtain ⟨x, h⟩ := placeFrame_latest hmode i
    have hframes : (ch.placeFrame i).frames = ch.frames := by rw [h]
    rw [hslot, hframes]
    split <;> rfl

/-! ## The reader -/

theorem snapshotLatest_of_substitute {ch : Channel} (hstale : ch.state = .stale) (hpol : ch.config.policy = .substitute) :
    ch.snapshotLatest = { ch with held := .substitute } := by
  simp only [Channel.snapshotLatest, hstale, hpol, and_self, if_true]

theorem snapshotLatest_of_newest {ch : Channel} {n : Fin 8} (h : ¬ (ch.state = .stale ∧ ch.config.policy = .substitute))
    (hn : ch.newest = some n) : ch.snapshotLatest = { ch with held := .slot n } := by
  simp only [Channel.snapshotLatest, if_neg h, hn]

theorem snapshotLatest_of_nothing {ch : Channel} (h : ¬ (ch.state = .stale ∧ ch.config.policy = .substitute))
    (hn : ch.newest = none) : ch.snapshotLatest = { ch with held := .none } := by
  simp only [Channel.snapshotLatest, if_neg h, hn]

theorem snapshotQueue_of_head {ch : Channel} {n : Fin 8} {rest : List (Fin 8)} (h : ch.committed = n :: rest) :
    ch.snapshotQueue = { ch with held := .slot n } := by
  simp only [Channel.snapshotQueue, h, List.head?_cons]

theorem snapshotQueue_of_empty {ch : Channel} (h : ch.committed = []) : ch.snapshotQueue = ch := by
  simp only [Channel.snapshotQueue, h, List.head?_nil]

/-- A LATEST release touches slots, what is held and the newest. -/
theorem releaseLatest_touches (ch : Channel) :
    ∃ x n, ch.releaseLatest = { ch with slots := x, held := .none, newest := n } := by
  cases hheld : ch.held with
  | none => exact ⟨ch.slots, ch.newest, (Channel.releaseLatest_of_none hheld).trans (by rw [← hheld])⟩
  | substitute => exact ⟨ch.slots, ch.newest, Channel.releaseLatest_of_substitute hheld⟩
  | slot i =>
    cases hvalid : ch.valid i with
    | false => exact ⟨_, _, Channel.releaseLatest_of_invalid hheld hvalid⟩
    | true =>
      by_cases hnew : ch.newest = some i
      · exact ⟨_, _, Channel.releaseLatest_of_newest hheld hvalid hnew⟩
      · exact ⟨_, _, Channel.releaseLatest_of_superseded hheld hvalid hnew⟩

theorem tagSnapshot_of_queue_held {ch : Channel} (hmode : ch.config.mode = .queue) (h : ch.held ≠ .none) :
    ch.tagSnapshot = ch := by
  simp only [Channel.tagSnapshot, hmode, if_neg h]

theorem tagSnapshot_of_queue_none {ch : Channel} (hmode : ch.config.mode = .queue) (h : ch.held = .none) :
    ch.tagSnapshot = ch.snapshotQueue := by
  simp only [Channel.tagSnapshot, hmode, h, if_true]

theorem dataSnapshot_of_held {ch : Channel} (h : ch.held ≠ .none) : ch.dataSnapshot = ch := by
  simp only [Channel.dataSnapshot, if_neg h]

theorem dataSnapshot_of_latest {ch : Channel} (h : ch.held = .none) (hmode : ch.config.mode = .latest) :
    ch.dataSnapshot = ch.snapshotLatest := by
  simp only [Channel.dataSnapshot, h, hmode, if_true]

theorem dataSnapshot_of_queue {ch : Channel} (h : ch.held = .none) (hmode : ch.config.mode = .queue) :
    ch.dataSnapshot = ch.snapshotQueue := by
  simp only [Channel.dataSnapshot, h, hmode, if_true]

section
variable {s : State} {p : Port} {a : Access} {c : ChanId} {ch ch1 : Channel} {off : Nat}

theorem takeReaderTagRead_of_none (h : ch.tagSnapshot = ch1) (hheld : ch1.held = .none) :
    takeReaderTagRead p a c ch off s = emptyRead p a c ch1 s := by
  simp only [takeReaderTagRead, h, hheld]

theorem takeReaderTagRead_of_slot {i : Fin 8} (h : ch.tagSnapshot = ch1) (hheld : ch1.held = .slot i) :
    takeReaderTagRead p a c ch off s = putTagRead p a c ch1 i (s.setChan c (some ch1)) := by
  simp only [takeReaderTagRead, h, hheld]

theorem takeReaderTagRead_of_substitute {b : Nat} (h : ch.tagSnapshot = ch1) (hheld : ch1.held = .substitute)
    (hb : ch1.config.substitute = some b) :
    takeReaderTagRead p a c ch off s = putWords p a [b] [] .plain (s.setChan c (some ch1)) := by
  simp only [takeReaderTagRead, h, hheld, hb, Option.getD_some]

theorem takeReaderDataRead_of_none (h : ch.dataSnapshot = ch1) (hheld : ch1.held = .none) :
    takeReaderDataRead p a c ch off s = emptyRead p a c ch1 s := by
  simp only [takeReaderDataRead, h, hheld]

theorem takeReaderDataRead_of_slot {i : Fin 8} (h : ch.dataSnapshot = ch1) (hheld : ch1.held = .slot i) :
    takeReaderDataRead p a c ch off s
      = putWords p a (wordsFrom (ch1.config.slotAddr i + 4 * off) (wordCount a)) [] .plain (s.setChan c (some ch1)) := by
  simp only [takeReaderDataRead, h, hheld]

theorem takeReaderDataRead_of_substitute {b : Nat} (h : ch.dataSnapshot = ch1) (hheld : ch1.held = .substitute)
    (hb : ch1.config.substitute = some b) :
    takeReaderDataRead p a c ch off s
      = putWords p a (wordsFrom (b + 4 * off) (wordCount a)) [] .plain (s.setChan c (some ch1)) := by
  simp only [takeReaderDataRead, h, hheld, hb, Option.getD_some]

theorem commitOutstanding_setChan (x : Option Channel) (i : Fin 8) :
    commitOutstanding p c i (s.setChan c x) = commitOutstanding p c i s := rfl

theorem putTagRead_of_free {i : Fin 8} (h : commitOutstanding p c i s = false) :
    putTagRead p a c ch i s = putWords p a [ch.config.slotAddr i] [] .plain s := by
  simp only [putTagRead, h, Bool.false_eq_true, if_false]

theorem putTagRead_of_outstanding {i : Fin 8} {b : BankId} (h : commitOutstanding p c i s = true)
    (hb : s.bankOf (ch.config.slotAddr i) = some b) :
    putTagRead p a c ch i s
      = s.setPort p { s.port p with
          phase := .keptBack a ⟨b, [ch.config.slotAddr i], false, a.size.val, 0, [], .plain⟩ c i } := by
  simp only [putTagRead, h, hb, if_true, State.setPhase]

theorem takeRelease_of_queue_held {i : Fin 8} (hmode : ch.config.mode = .queue) (h : ch.held = .slot i) :
    takeRelease p a c ch off s
      = answerOkay p a (raiseChannel c .consumed (s.setChan c (some (ch.releaseQueue i)))) := by
  simp only [takeRelease, hmode, h]

theorem takeRelease_of_queue_none (hmode : ch.config.mode = .queue) (h : ch.held = .none) :
    takeRelease p a c ch off s = answerOkay p a s := by
  simp only [takeRelease, hmode, h]

end

end Sys2Proof.Machine

namespace Sys2Proof.Proofs

open Sys2Proof Sys2Proof.Machine

/-- Settles O25: the write goes on in its filling slot, there already or just opened. -/
theorem writerWrites : Obligations.WriterWrites := by
  refine ⟨fun s p a c off ch i h hp hw hoff hfill => ?_, fun off n k set => mem_addOffsets off k set n,
    fun s t p a c off ch ch1 i h hp hw hfill hopen hch hfill1 =>
      ⟨fun hoff => ?_, fun hoff hform htag hcopy => ?_, fun hoff hform htag hcopy => ?_⟩⟩
  · rw [exec_writerDataWrite_of_handed h hp hw hoff, takeDataWrite, withFilling_of_filling p a _ hfill]
    rfl
  · rw [exec_writerDataWrite_of_handed h hp hw hoff, takeDataWrite, withFilling_of_opened p a _ hfill hopen hch hfill1]
    rfl
  · subst hoff
    rw [exec_commit_of_handed h hp hw hform htag, takeCommit, withFilling_of_opened p a _ hfill hopen hch hfill1,
      commitInto_of_noCopy hcopy]
  · subst hoff
    rw [exec_commit_of_handed h hp hw hform htag, takeCommit, withFilling_of_opened p a _ hfill hopen hch hfill1,
      commitInto_of_copy hcopy]

/-- Settles O26: a FREE slot first, then in LATEST a drop. -/
theorem openChoosesSlot : Obligations.OpenChoosesSlot := by
  refine fun s c ch => ⟨fun i hi hfirst => ⟨fun hnone => ?_, fun n hn hne => ?_⟩, fun hnone =>
    ⟨fun hmode => openSlot_of_queue hnone hmode, fun hmode hdrop => openSlot_of_latest_none hnone hmode hdrop,
      fun i hmode hdrop hfirst => openSlot_of_droppable hnone hmode hdrop hfirst⟩⟩
  · rw [openSlot_of_takable hi hfirst, openFree_of_noCopy hnone]
    rfl
  · rw [openSlot_of_takable hi hfirst, openFree_of_copy hn hne]
    rfl

/-- Settles O28: by the filling field and the copy's state, and the last frame. -/
theorem writerReadsServed : Obligations.WriterReadsServed := by
  refine ⟨fun s p a c off ch h hp hw hoff => ?_, fun s p a c ch h hp hw hform => ?_, fun ch => ?_⟩
  · rw [exec_writerDataRead_of_handed h hp hw hoff]
    refine ⟨fun i hfill hcopy => ?_, fun i k hfill hcopy hk => ?_, fun i n k hfill hcopy hk => ?_,
      fun i hfill hi => ?_, fun hfill hi => ?_⟩
    · simp only [takeWriterRead_of_filling hfill, Channel.writerReadAddrs, writerReadSlot_of_noCopy _ _ hcopy]
    · simp only [takeWriterRead_of_filling hfill, Channel.writerReadAddrs, writerReadSlot_of_queued _ _ hcopy hk]
    · simp only [takeWriterRead_of_filling hfill, Channel.writerReadAddrs, writerReadSlot_of_copying _ _ hcopy hk]
    · rw [takeWriterRead_of_frame hfill hi, wordsFrom]
    · rw [takeWriterRead_of_nothing hfill hi, answerZero]
  · rw [exec_writerTagRead_of_handed h hp hw hform]
    refine ⟨fun i hi => ?_, fun hi => ?_⟩
    · rw [takeWriterTagRead_of_frame hi]
    · rw [takeWriterTagRead_of_nothing hi, answerZero_of_single hform]
  · exact ⟨fun hmode => by simp only [Channel.lastFrame, hmode], fun hmode => by simp only [Channel.lastFrame, hmode]⟩

/-- Settles O29: the frame is placed by the mode, then its slot is committed. -/
theorem commitCarriedOut : Obligations.CommitCarriedOut := by
  refine ⟨fun s p a c ch i h hp hw hform htag hfill hcopy => ⟨ch.committing i s.msCount, ?_, ?_⟩,
    fun s p a c ch i h hp hw hform htag hfill hcopy => ?_⟩
  · rw [exec_commit_of_handed h hp hw hform htag, takeCommit, withFilling_of_filling p a _ hfill,
      commitInto_of_noCopy hcopy, carryOutCommit]
  · obtain ⟨hframes, hlast, hfilling, hstate, hdeadline⟩ := committing_fields ch i s.msCount
    refine ⟨slot_committing_same ch i s.msCount, hframes, hlast, hfilling, hstate, hdeadline, fun hmode => ?_,
      fun hmode => ?_, committing_keeps ch i s.msCount⟩
    · have hplaced := placeFrame_queue hmode i
      refine ⟨by rw [Channel.committing, hplaced]; rfl, by rw [Channel.committing, hplaced]; rfl, fun j hj => ?_⟩
      rw [slot_committing, if_neg hj, hplaced]
      rfl
    · obtain ⟨x, hplaced⟩ := placeFrame_latest hmode i
      refine ⟨by rw [Channel.committing, hplaced]; rfl, by rw [Channel.committing, hplaced]; rfl, fun j hj => ?_⟩
      rw [slot_committing, if_neg hj, slot_placeFrame_latest hmode]
      rfl
  · rw [exec_commit_of_handed h hp hw hform htag, takeCommit, withFilling_of_filling p a _ hfill,
      commitInto_of_copy hcopy]

/-- Settles O31: by what the snapshot of the mode leaves held. -/
theorem readerTagReadSnapshots : Obligations.ReaderTagReadSnapshots := by
  refine ⟨fun s p a c ch h hp hw hform hmode hout => ?_, fun s p a c ch h hp hw hform hmode => ?_,
    fun s p a c ch i b h hp hw hform hheld hout hcfg hbank => ?_⟩
  · rw [exec_readerTagRead_of_handed h hp hw hform]
    have hsnap := Channel.tagSnapshot_of_latest hmode
    obtain ⟨x, n, hrel⟩ := releaseLatest_touches ch
    have hstate : ch.releaseLatest.state = ch.state := by rw [hrel]
    have hconfig : ch.releaseLatest.config = ch.config := by rw [hrel]
    have hempty : ch.releaseLatest.empty = ch.empty := by rw [hrel]
    refine ⟨fun b hstale hpol hb => ?_, fun hnsub => ⟨fun n hn => ?_, fun hn => ?_⟩⟩
    · rw [snapshotLatest_of_substitute (hstate.trans hstale) (by rw [hconfig, hpol])] at hsnap
      rw [takeReaderTagRead_of_substitute (b := b) hsnap rfl (by rw [← hb, ← hconfig])]
    · rw [snapshotLatest_of_newest (by rwa [hstate, hconfig]) hn] at hsnap
      rw [hn, Option.getD_some] at hout
      rw [takeReaderTagRead_of_slot hsnap rfl, putTagRead_of_free ((commitOutstanding_setChan ..).trans hout)]
      simp only [hconfig]
    · rw [snapshotLatest_of_nothing (by rwa [hstate, hconfig]) hn] at hsnap
      rw [takeReaderTagRead_of_none hsnap rfl, emptyRead, answerZero_of_single hform, hempty]
  · rw [exec_readerTagRead_of_handed h hp hw hform]
    refine ⟨fun i hheld hout => ?_, fun i rest hheld hlist hout => ?_, fun hheld hlist => ?_⟩
    · rw [takeReaderTagRead_of_slot (tagSnapshot_of_queue_held hmode (by rw [hheld]; exact nofun)) hheld,
        putTagRead_of_free ((commitOutstanding_setChan ..).trans hout)]
    · have hsnap := (tagSnapshot_of_queue_none hmode hheld).trans (snapshotQueue_of_head hlist)
      rw [takeReaderTagRead_of_slot hsnap rfl, putTagRead_of_free ((commitOutstanding_setChan ..).trans hout)]
    · have hsnap := (tagSnapshot_of_queue_none hmode hheld).trans (snapshotQueue_of_empty hlist)
      rw [takeReaderTagRead_of_none hsnap hheld, emptyRead, answerZero_of_single hform]
  · rw [exec_readerTagRead_of_handed h hp hw hform, takeReaderTagRead_of_slot rfl hheld,
      putTagRead_of_outstanding ((commitOutstanding_setChan ..).trans hout) (by rw [hcfg]; exact hbank), hcfg]
    rfl

/-- Settles O32: by what is held, or what the snapshot of the mode takes. -/
theorem readerDataReadServed : Obligations.ReaderDataReadServed := by
  intro s p a c off ch h hp hw hoff
  rw [exec_readerDataRead_of_handed h hp hw hoff]
  refine ⟨fun i hheld => ?_, fun b hheld hb => ?_, fun b hheld hmode hstale hpol hb => ?_,
    fun n hheld hmode hnsub hn => ?_, fun hheld hmode hnsub hn => ?_, fun n rest hheld hmode hlist => ?_,
    fun hheld hmode hlist => ?_⟩
  · rw [takeReaderDataRead_of_slot (dataSnapshot_of_held (by rw [hheld]; exact nofun)) hheld, wordsFrom]
  · rw [takeReaderDataRead_of_substitute (dataSnapshot_of_held (by rw [hheld]; exact nofun)) hheld hb, wordsFrom]
  · have hsnap := (dataSnapshot_of_latest hheld hmode).trans (snapshotLatest_of_substitute hstale hpol)
    rw [takeReaderDataRead_of_substitute hsnap rfl hb, wordsFrom]
  · have hsnap := (dataSnapshot_of_latest hheld hmode).trans (snapshotLatest_of_newest hnsub hn)
    rw [takeReaderDataRead_of_slot hsnap rfl, wordsFrom]
  · have hsnap := (dataSnapshot_of_latest hheld hmode).trans (snapshotLatest_of_nothing hnsub hn)
    rw [takeReaderDataRead_of_none hsnap rfl, emptyRead, answerZero, ← hheld]
  · have hsnap := (dataSnapshot_of_queue hheld hmode).trans (snapshotQueue_of_head hlist)
    rw [takeReaderDataRead_of_slot hsnap rfl, wordsFrom]
  · have hsnap := (dataSnapshot_of_queue hheld hmode).trans (snapshotQueue_of_empty hlist)
    rw [takeReaderDataRead_of_none hsnap hheld, emptyRead, answerZero]

/-- Settles O34. -/
theorem queueReleaseConsumes : Obligations.QueueReleaseConsumes := by
  intro s p a c ch h hp hw hform hmode
  rw [exec_release_of_handed h hp hw hform]
  refine ⟨fun i hheld => ?_, fun hheld => ?_⟩
  · rw [takeRelease_of_queue_held hmode hheld, answerOkay]
    rfl
  · rw [takeRelease_of_queue_none hmode hheld, answerOkay]

/-- Settles O35: the kind by role and direction, then the check it does not pass. -/
theorem windowChecks : Obligations.WindowChecks := by
  refine ⟨fun s p a c off ch h hp hw hoff => congrArg Host.Outcome.next (event_takeWindow_role _ h hp hw hoff),
    fun s p a c ch h hform => ⟨fun hp hw htag => ?_, fun hp hw htag => ?_, fun hp hw => ?_, fun hp hw => ?_,
      fun hp hw => ?_⟩⟩
  · exact congrArg Host.Outcome.next (event_takeWindow_malformed takeCommit h (windowKind_commit hp hw htag) hform)
  · exact congrArg Host.Outcome.next (event_takeWindow_malformed takeDiscard h (windowKind_discard hp hw htag) hform)
  · exact congrArg Host.Outcome.next
      (event_takeWindow_malformed takeWriterTagRead h (windowKind_writerTagRead hp hw) hform)
  · exact congrArg Host.Outcome.next (event_takeWindow_malformed takeRelease h (windowKind_release hp hw) hform)
  · exact congrArg Host.Outcome.next
      (event_takeWindow_malformed takeReaderTagRead h (windowKind_readerTagRead hp hw) hform)

end Sys2Proof.Proofs
end

section
/-! PROOF. Notices at a channel: the frames lost, the filling abandoned, and the bank's return. -/

namespace Sys2Proof.Machine

open Sys2Proof

/-! ## Frames lost -/

theorem Channel.slot_loseFrames (ch : Channel) (gone : List (Fin 8)) (j : Fin 8) :
    (ch.loseFrames gone).slot j = if j ∈ gone then (ch.slot j).freed else ch.slot j := by
  have hget : (ch.loseFrames gone).slot j = if gone.any (fun g => g.val == j.val) then (ch.slot j).freed else ch.slot j :=
    vector_get_mapIdx _ ch.slots j
  have hany : gone.any (fun g => g.val == j.val) = true ↔ j ∈ gone := by
    rw [List.any_eq_true]
    exact ⟨fun ⟨g, hg, he⟩ => Fin.ext (beq_iff_eq.1 he) ▸ hg, fun h => ⟨j, h, beq_self_eq_true _⟩⟩
  rw [hget]
  exact ite_of_iff hany rfl rfl

/-- With no frame lost nothing is. -/
theorem Channel.loseFrames_nil (ch : Channel) : ch.loseFrames [] = ch := by
  have hslots : ch.slots.mapIdx (fun i x => if ([] : List (Fin 8)).any (fun g => g.val == i) then x.freed else x)
      = ch.slots := by
    ext i hi
    simp
  have hlist : ch.committed.filter (fun i => !([] : List (Fin 8)).contains i) = ch.committed := by simp
  unfold Channel.loseFrames
  rw [hslots, hlist]
  cases ch with
  | mk config state frames newest => cases newest <;> rfl

theorem Channel.newest_loseFrames (ch : Channel) (gone : List (Fin 8)) :
    (ch.loseFrames gone).newest = if ∃ i, ch.newest = some i ∧ i ∈ gone then ch.heldCommitted else ch.newest := by
  simp only [Channel.loseFrames]
  cases hnew : ch.newest with
  | none => simp
  | some n => simp

theorem slotsLeave_nothing {s : State} {c : ChanId} {gone : List (Fin 8)} {ch : Channel}
    (hfill : ch.fillingLost gone = false) (hframes : gone.filter ch.losesFrame = []) :
    slotsLeave c gone ch s = s.setChan c (some ch) := by
  simp only [slotsLeave, hfill, Bool.false_eq_true, if_false, hframes, List.isEmpty_nil, if_true]

theorem slotsLeave_frames {s : State} {c : ChanId} {gone frames : List (Fin 8)} {ch : Channel}
    (hfill : ch.fillingLost gone = false) (hframes : gone.filter ch.losesFrame = frames) (hne : frames ≠ []) :
    slotsLeave c gone ch s = raiseChannel c .lost (s.setChan c (some (ch.loseFrames frames))) := by
  simp only [slotsLeave, hfill, Bool.false_eq_true, if_false, hframes, List.isEmpty_iff, if_neg hne]

/-- The filling abandoned, with the frames lost in the same request. -/
theorem slotsLeave_filling {s : State} {c : ChanId} {gone frames : List (Fin 8)} {ch : Channel}
    (hfill : ch.fillingLost gone = true) (hframes : gone.filter ch.fillingEnded.losesFrame = frames) :
    slotsLeave c gone ch s =
      if frames = [] then abandonEffects c ch (s.setChan c (some (ch.fillingEnded.loseFrames frames)))
      else raiseChannel c .lost (abandonEffects c ch (s.setChan c (some (ch.fillingEnded.loseFrames frames)))) := by
  simp only [slotsLeave, hfill, if_true, hframes, List.isEmpty_iff]
  by_cases hnil : frames = []
  · rw [hnil, Channel.loseFrames_nil]
    rfl
  · rw [if_neg hnil, if_neg hnil, if_neg hnil]

/-- The slots that were valid and whose frames go are those of `leavesUse`. -/
theorem filter_validSlots {ch ch1 : Channel}
    (h : ∀ i, ch1.losesFrame i = ((ch.slot i).state == .committed && !ch.holds i)) :
    ch.validSlots.filter ch1.losesFrame = slotIds.filter (leavesUse ch) := by
  rw [Channel.validSlots, List.filter_filter]
  refine List.filter_congr fun i _ => ?_
  rw [h, leavesUse, Bool.and_comm, Bool.and_assoc _ _ (!ch.holds i)]

theorem mem_slotIds (i : Fin 8) : i ∈ slotIds := by
  revert i
  decide

theorem mem_leaving {ch : Channel} {i : Fin 8} : i ∈ slotIds.filter (leavesUse ch) ↔ leavesUse ch i = true := by
  simp [mem_slotIds]

theorem leaving_nil_iff {ch : Channel} : slotIds.filter (leavesUse ch) = [] ↔ ∀ i, leavesUse ch i = false := by
  simp [List.filter_eq_nil_iff, mem_slotIds]

theorem contains_leaving (ch : Channel) (i : Fin 8) :
    (slotIds.filter (leavesUse ch)).contains i = leavesUse ch i := by
  rw [Bool.eq_iff_iff, List.contains_iff_mem, mem_leaving]

/-! ## The filling abandoned -/

theorem Channel.slot_fillingEnded {ch : Channel} {i : Fin 8} (h : ch.filling = some i) (j : Fin 8) :
    ch.fillingEnded.slot j =
      if j = i then { (ch.slot i).freed with copySource := false } else { ch.slot j with copySource := false } := by
  rw [Channel.fillingEnded_of_filling h]
  refine (vector_get_map _ (ch.slots.set i (ch.slot i).freed) j).trans ?_
  by_cases hj : j = i
  · subst hj
    rw [if_pos rfl, vector_get_set_same]
  · rw [if_neg hj, vector_get_set_ne _ _ hj]
    rfl

/-- The end of a filling changes no frame that may be lost. -/
theorem Channel.losesFrame_fillingEnded {ch : Channel} {i : Fin 8} (h : ch.filling = some i)
    (hi : (ch.slot i).state = .filling) (j : Fin 8) :
    ch.fillingEnded.losesFrame j = ((ch.slot j).state == .committed && !ch.holds j) := by
  have hholds : ch.fillingEnded.holds j = ch.holds j := by rw [Channel.fillingEnded_of_filling h]; rfl
  rw [Channel.losesFrame, hholds, Channel.slot_fillingEnded h]
  by_cases hj : j = i
  · subst hj
    rw [if_pos rfl, hi]
    rfl
  · rw [if_neg hj]

theorem Channel.heldCommitted_fillingEnded {ch : Channel} {i : Fin 8} (h : ch.filling = some i)
    (hi : (ch.slot i).state = .filling) : ch.fillingEnded.heldCommitted = ch.heldCommitted := by
  have hheld : ch.fillingEnded.held = ch.held := by rw [Channel.fillingEnded_of_filling h]
  unfold Channel.heldCommitted
  rw [hheld]
  cases ch.held with
  | none => rfl
  | substitute => rfl
  | slot j =>
    dsimp only
    rw [Channel.slot_fillingEnded h]
    by_cases hj : j = i
    · subst hj
      rw [if_pos rfl, hi]
      rfl
    · rw [if_neg hj]

/-! ## The steps -/

/-- A channel whose leaving notice is taken: no slot is valid any more. -/
def Channel.bankGone (ch : Channel) (rest : List Notice) : Channel :=
  { ch with notices := rest, bankUp := false }

theorem exec_leavingNotice_of_off {s : State} {c : ChanId} {ch : Channel} {rest : List Notice}
    (hpin : s.pinAsserted = false) (hch : s.chan c = some ch) (hnote : ch.notices = .leaving :: rest)
    (hoff : ch.state = .off) :
    exec (.leavingNotice c) s = .next (settle s (s.setChan c (some { ch with notices := rest, bankUp := false }))) := by
  refine next_event_of_some hpin ?_
  simp only [takeLeaving, hch, hnote, hoff, if_true]

theorem exec_leavingNotice_of_on {s t : State} {c : ChanId} {ch : Channel} {rest : List Notice}
    (hpin : s.pinAsserted = false) (hch : s.chan c = some ch) (hnote : ch.notices = .leaving :: rest)
    (hon : ch.state ≠ .off)
    (ht : slotsLeave c ch.validSlots (ch.bankGone rest) s = t) :
    exec (.leavingNotice c) s = .next (settle s t) := by
  refine next_event_of_some hpin ?_
  simp only [takeLeaving, hch, hnote, if_neg hon]
  exact congrArg some ht

theorem exec_enteringNotice {s : State} {c : ChanId} {ch : Channel} {rest : List Notice}
    (hpin : s.pinAsserted = false) (hch : s.chan c = some ch) (hnote : ch.notices = .entering :: rest) :
    exec (.enteringNotice c) s = .next (settle s (s.setChan c (some { ch with notices := rest, bankUp := true }))) := by
  refine next_event_of_some hpin ?_
  simp only [takeEntering, hch, hnote]

theorem answerWaiting_of_waiting {s : State} {p : Port} {a : Access} {c : ChanId} {f : FaultCode}
    (h : (s.port p).phase = .waitingCommit a c) : answerWaiting p c f s = answerFault p a f s := by
  simp only [answerWaiting, h, if_true]

theorem answerWaiting_of_not_waiting {s : State} {p : Port} {c : ChanId} {f : FaultCode}
    (h : ∀ a, (s.port p).phase ≠ .waitingCommit a c) : answerWaiting p c f s = s := by
  unfold answerWaiting
  cases hphase : (s.port p).phase with
  | waitingCommit a d =>
    refine if_neg ?_
    rintro rfl
    exact h a hphase
  | _ => rfl

end Sys2Proof.Machine

namespace Sys2Proof.Proofs

open Sys2Proof Sys2Proof.Machine

/-- Settles O36: the frames that go are the slots of `leavesUse`, whether or not a filling is abandoned with them. -/
theorem noticesTakenAtChannel : Obligations.NoticesTakenAtChannel := by
  refine ⟨fun s c ch rest hpin hch hnote hoff => exec_leavingNotice_of_off hpin hch hnote hoff, ?held, ?frames,
    fun s c ch rest hpin hch hnote => exec_enteringNotice hpin hch hnote, ?filling, fun s c => ⟨rfl, rfl, fun n => rfl⟩,
    fun s p c f => ⟨fun a h => answerWaiting_of_waiting h, fun h => answerWaiting_of_not_waiting h⟩⟩
  case held =>
    intro s c ch rest hpin hch hnote hon hfill hheld
    have hlost : (ch.bankGone rest).fillingLost ch.validSlots = false := by
      simp only [Channel.fillingLost, Channel.bankGone, hfill]
    refine exec_leavingNotice_of_on hpin hch hnote hon (slotsLeave_nothing hlost ?_)
    refine List.filter_eq_nil_iff.2 fun i _ hi => ?_
    obtain ⟨hstate, hnot⟩ := Bool.and_eq_true_iff.1 hi
    have hnot : (!ch.holds i) = true := hnot
    rw [hheld i (beq_iff_eq.1 hstate)] at hnot
    cases hnot
  case frames =>
    intro s c ch rest n hpin hch hnote hon hfill hn
    have hlost : (ch.bankGone rest).fillingLost ch.validSlots = false := by
      simp only [Channel.fillingLost, Channel.bankGone, hfill]
    have hframes : ch.validSlots.filter (ch.bankGone rest).losesFrame
        = slotIds.filter (leavesUse ch) := filter_validSlots fun i => rfl
    have hne : slotIds.filter (leavesUse ch) ≠ [] := fun h => by
      rw [leaving_nil_iff.1 h n] at hn
      cases hn
    refine ⟨_, exec_leavingNotice_of_on hpin hch hnote hon (slotsLeave_frames hlost hframes hne), fun i => ?_, rfl, ?_, ?_,
      rfl, rfl, rfl, rfl, rfl, rfl, rfl, hfill⟩
    · rw [Channel.slot_loseFrames]
      exact ite_of_iff mem_leaving rfl rfl
    · rw [Channel.newest_loseFrames]
      simp only [mem_leaving]
      rfl
    · simp only [Channel.loseFrames, contains_leaving]
      rfl
  case filling =>
    intro s c ch rest i hpin hch hnote hon hfill hi hdepth hvalid
    have hfill1 : (ch.bankGone rest).filling = some i := hfill
    have hlost : (ch.bankGone rest).fillingLost ch.validSlots = true := by
      have hmem : ch.validSlots.contains i = true := by
        rw [List.contains_iff_mem, Channel.validSlots, List.mem_filter]
        exact ⟨mem_slotIds i, by rw [hvalid, decide_eq_true hdepth]; rfl⟩
      simp only [Channel.fillingLost, hfill1, hmem, Bool.true_or]
    have hframes : ch.validSlots.filter (ch.bankGone rest).fillingEnded.losesFrame = slotIds.filter (leavesUse ch) :=
      filter_validSlots fun j => Channel.losesFrame_fillingEnded hfill1 hi j
    have hleave := slotsLeave_filling (s := s) (c := c) hlost hframes
    have hended := Channel.fillingEnded_of_filling hfill1
    refine ⟨(ch.bankGone rest).fillingEnded.loseFrames (slotIds.filter (leavesUse ch)), _, rfl, fun hnone => ?_, fun k hk => ?_,
      fun k => ?_, ?_⟩
    · rw [if_pos (leaving_nil_iff.2 hnone)] at hleave
      exact exec_leavingNotice_of_on hpin hch hnote hon hleave
    · have hne : slotIds.filter (leavesUse ch) ≠ [] := fun h => by
        rw [leaving_nil_iff.1 h k] at hk
        cases hk
      rw [if_neg hne] at hleave
      exact exec_leavingNotice_of_on hpin hch hnote hon hleave
    · rw [Channel.slot_loseFrames, Channel.slot_fillingEnded hfill1]
      by_cases hk : k = i
      · subst hk
        simp only [true_or, if_true]
        split <;> rfl
      · simp only [hk, false_or, if_false, mem_leaving]
        rfl
    · have hnewest := (ch.bankGone rest).fillingEnded.newest_loseFrames (slotIds.filter (leavesUse ch))
      rw [Channel.heldCommitted_fillingEnded hfill1 hi] at hnewest
      simp only [mem_leaving] at hnewest
      have hcommitted : ((ch.bankGone rest).fillingEnded.loseFrames (slotIds.filter (leavesUse ch))).committed
          = (ch.bankGone rest).fillingEnded.committed.filter (fun k => !leavesUse ch k) := by
        simp only [Channel.loseFrames, contains_leaving]
      rw [hended] at hnewest hcommitted ⊢
      exact ⟨rfl, hnewest, hcommitted, rfl, rfl, rfl, rfl, rfl, rfl, rfl, rfl, rfl⟩

end Sys2Proof.Proofs
end

section
/-! PROOF. The copy engine: the head of the queue, the ends of its operations, its reports and the abort notice. -/

namespace Sys2Proof.Machine

open Sys2Proof

theorem vector_set_set {α : Type} {n : Nat} (v : Vector α n) (i : Fin n) (x y : α) :
    (v.set i x).set i y = v.set i y := by
  ext j hj
  simp only [Vector.getElem_set]
  split <;> rfl

/-! ## The dealing -/

theorem jobClaimed_of_chan {s : State} {j : CopyJob} {ch : Channel} (h : s.chan j.channel = some ch) (k : Nat) :
    jobClaimed s j k = (ch.slot j.target).written.contains k := by
  simp only [jobClaimed, h]

theorem jobCopying_of_chan {s : State} {j : CopyJob} {ch : Channel} (h : s.chan j.channel = some ch) :
    jobCopying s j = ch.isCopying := by
  simp only [jobCopying, h]

theorem showNext_of_copying {s : State} {j : CopyJob} {ch : Channel} {n : Nat} (h : s.chan j.channel = some ch)
    (hc : ch.copy = .copying n) :
    showNext j s = s.setChan j.channel (some { ch with copy := .copying j.next }) := by
  simp only [showNext, h, Channel.isCopying, hc, if_true]

/-- Looking at more offsets than are left changes nothing. -/
theorem skipClaimed_fuel {s : State} {j : CopyJob} :
    ∀ f g k, j.len ≤ k + f → j.len ≤ k + g → skipClaimed s j f k = skipClaimed s j g k := by
  intro f
  induction f with
  | zero =>
    intro g k hf _
    cases g with
    | zero => rfl
    | succ g => rw [skipClaimed, skipClaimed, if_pos (show j.len ≤ k from hf)]
  | succ f ih =>
    intro g k hf hg
    cases g with
    | zero => rw [skipClaimed, skipClaimed, if_pos (show j.len ≤ k from hg)]
    | succ g =>
      rw [skipClaimed, skipClaimed, ih g (k + 1) (by omega) (by omega)]

/-- The dealing looks at the copy's length, target and channel. -/
theorem skipClaimed_next (s : State) (j : CopyJob) (n : Nat) :
    ∀ f k, skipClaimed s { j with next := n } f k = skipClaimed s j f k := by
  intro f
  induction f with
  | zero => exact fun _ => rfl
  | succ f ih =>
    intro k
    simp only [skipClaimed, ih]
    rfl

theorem skipClaimed_claimed {s : State} {j : CopyJob} (hlt : j.next < j.len) (hc : jobClaimed s j j.next = true) :
    skipClaimed s j j.len j.next = skipClaimed s j j.len (j.next + 1) := by
  obtain ⟨m, hm⟩ : ∃ m, j.len = m + 1 := ⟨j.len - 1, by omega⟩
  have hstep : skipClaimed s j (m + 1) j.next = skipClaimed s j m (j.next + 1) := by
    rw [skipClaimed, if_neg (by omega), if_pos hc]
  rw [skipClaimed_fuel j.len (m + 1) (j.next + 1) (by omega) (by omega), hm, hstep]
  exact skipClaimed_fuel _ _ _ (by omega) (by omega)

theorem skipClaimed_unclaimed {s : State} {j : CopyJob} (hlt : j.next < j.len) (hc : jobClaimed s j j.next = false) :
    skipClaimed s j j.len j.next = j.next := by
  obtain ⟨m, hm⟩ : ∃ m, j.len = m + 1 := ⟨j.len - 1, by omega⟩
  rw [hm, skipClaimed, if_neg (by omega), hc]
  rfl

theorem skipClaimed_end {s : State} {j : CopyJob} (h : j.next = j.len) (f : Nat) :
    skipClaimed s j f j.next = j.next := by
  cases f with
  | zero => rfl
  | succ f => rw [skipClaimed, if_pos (by omega)]

/-- A claimed offset is passed over. -/
theorem copyAdvance_claimed {s : State} {j : CopyJob} (hlt : j.next < j.len) (hc : jobClaimed s j j.next = true) :
    copyAdvance j s = copyAdvance { j with next := j.next + 1 } s := by
  have hskip : skipClaimed s { j with next := j.next + 1 } j.len (j.next + 1) = skipClaimed s j j.len j.next := by
    rw [skipClaimed_next, skipClaimed_claimed hlt hc]
  simp only [copyAdvance, hskip]

section
variable {s : State} {j : CopyJob} {ch : Channel} {n k : Nat}

/-- The engine at offset `k`, all before it claimed. -/
theorem copyAdvance_read (hch : s.chan j.channel = some ch) (hcopy : ch.copy = .copying n)
    (hskip : skipClaimed s j j.len j.next = k) (hlt : k < j.len) (hin : s.inService j.bank = true) :
    copyAdvance j s = (s.setChan j.channel (some { ch with copy := .copying k })).setEngine
      (.active { j with next := k, flight := .readWaiting, word := none }) := by
  subst hskip
  have hshow := showNext_of_copying (j := { j with next := skipClaimed s j j.len j.next, flight := .none, word := none })
    hch hcopy
  have hin' : ∀ x, (s.setChan j.channel x).inService j.bank = true := fun _ => hin
  simp only [copyAdvance, hshow, if_neg (Nat.not_le.2 hlt), hin', if_true]

theorem copyAdvance_failure (hch : s.chan j.channel = some ch) (hcopy : ch.copy = .copying n)
    (hskip : skipClaimed s j j.len j.next = k) (hlt : k < j.len) (hout : s.inService j.bank = false) :
    copyAdvance j s = (s.setChan j.channel (some { ch with copy := .copying k })).setEngine
      (.ending { j with next := k, flight := .none, word := none } .failure) := by
  subst hskip
  have hshow := showNext_of_copying (j := { j with next := skipClaimed s j j.len j.next, flight := .none, word := none })
    hch hcopy
  have hout' : ∀ x, (s.setChan j.channel x).inService j.bank = false := fun _ => hout
  simp only [copyAdvance, hshow, if_neg (Nat.not_le.2 hlt), hout', Bool.false_eq_true, if_false]

theorem copyAdvance_completion (hch : s.chan j.channel = some ch) (hcopy : ch.copy = .copying n)
    (hskip : skipClaimed s j j.len j.next = j.len) :
    copyAdvance j s = (s.setChan j.channel (some { ch with copy := .copying j.len })).setEngine
      (.ending { j with next := j.len, flight := .none, word := none } .completion) := by
  have hshow := showNext_of_copying (j := { j with next := j.len, flight := .none, word := none }) hch hcopy
  simp only [copyAdvance, hskip, hshow, Nat.le_refl, if_true]

end

/-! ## The head of the queue -/

/-- The copy the engine takes for the channel at the head of the queue. -/
theorem exec_copyTakeHead {s t : State} {c : ChanId} {rest : List ChanId} {ch : Channel} {i k : Fin 8} {b : BankId}
    (hpin : s.pinAsserted = false) (hcopy : s.copy = ⟨c :: rest, .idle, false⟩) (hch : s.chan c = some ch)
    (hfill : ch.filling = some i) (hsrc : ch.copySourceSlot = some k) (hbank : s.bankOf ch.config.slotBase = some b)
    (ht : beginCopy ⟨c, k, i, 1, .none, none, ch.config.len, b, ch.config.slotAddr k, ch.config.slotAddr i⟩
        { s.setChan c (some { ch with copy := .copying 1 }) with copy := ⟨rest, .idle, false⟩ } = t) :
    exec .copyTakeHead s = .next (settle s t) := by
  refine next_event_of_some hpin ?_
  unfold takeHead
  simp only [hcopy, hch]
  split
  · rename_i hfill' hsrc' hbank'
    rw [hfill] at hfill'
    rw [hsrc] at hsrc'
    rw [hbank] at hbank'
    cases hfill'
    cases hsrc'
    cases hbank'
    exact congrArg some ht
  · rename_i hno
    exact (hno _ _ _ hfill hsrc hbank).elim

/-- A taken copy with an unclaimed offset ahead is ACTIVE; with none it deals with them at once. -/
theorem beginCopy_active {s : State} {j : CopyJob} (h : skipClaimed s j j.len j.next < j.len) :
    beginCopy j s = s.setEngine (.active j) := by
  rw [beginCopy, if_neg (Nat.not_le.2 h)]

theorem beginCopy_done {s : State} {j : CopyJob} {ch : Channel} {n : Nat} (hch : s.chan j.channel = some ch)
    (hcopy : ch.copy = .copying n) (hle : j.next ≤ j.len)
    (hall : ∀ x, j.next ≤ x → x < j.len → (ch.slot j.target).written.contains x = true) :
    beginCopy j s = (s.setChan j.channel (some { ch with copy := .copying j.len })).setEngine
      (.ending { j with next := j.len, flight := .none, word := none } .completion) := by
  have hskip : skipClaimed s j j.len j.next = j.len :=
    skipClaimed_all _ _ hle (Nat.le_add_left ..) fun x h1 hx => (jobClaimed_of_chan hch x).trans (hall x h1 hx)
  rw [beginCopy, if_pos (Nat.le_of_eq hskip.symm), copyAdvance_completion hch hcopy hskip]

/-! ## The engine's reads -/

theorem inService_of_banks {s t : State} {b : BankId} (h : (t.bank b).service = (s.bank b).service) :
    t.inService b = s.inService b := by
  rw [State.inService, State.inService, h]

/-- Counting an uncorrectable word moves no bank. -/
theorem service_countUncorrectable (src : Source) (b d : BankId) (addr : Nat) (s : State) :
    ((countUncorrectable src b addr s).bank d).service = (s.bank d).service := by
  obtain ⟨g, h⟩ := countUncorrectable_eq src b addr s
  rw [h]
  change ((s.setBank b { s.bank b with ueCount := satInc (s.bank b).ueCount }).bank d).service = _
  by_cases hd : d = b
  · subst hd
    rw [bank_setBank_same]
  · rw [bank_setBank_ne _ _ hd]

theorem banks_countPoisoned (src : Source) (s : State) : (countPoisoned src s).banks = s.banks := by
  obtain ⟨e, g, h⟩ := countPoisoned_touches src s
  rw [h]

/-- A read access moves no bank, and with ready control aside it gives a word, good or poisoned. -/
theorem readAccess_gives (src : Source) (b d : BankId) (addr : Nat) (s : State) :
    (∃ w, copiedWord (readAccess src b addr none s).1 = some w)
      ∧ (readAccess src b addr none s).2.2.inService d = s.inService d := by
  cases hp : s.isProtected b with
  | false =>
    rw [readAccess_clean fun h => by rw [hp] at h; cases h]
    exact ⟨⟨_, rfl⟩, rfl⟩
  | true =>
    rw [readAccess_protected hp]
    generalize s.classAt addr = cls
    cases cls with
    | clean => exact ⟨⟨_, rfl⟩, rfl⟩
    | corrected v =>
      obtain ⟨-, -, hbanks⟩ := countCorrected_memory (storeWord b addr v s)
      refine ⟨⟨_, rfl⟩, inService_of_banks ?_⟩
      change ((countCorrected (storeWord b addr v s)).bank d).service = _
      rw [State.bank, hbanks]
      rfl
    | uncorrectable => exact ⟨⟨_, rfl⟩, inService_of_banks (service_countUncorrectable src b d addr _)⟩
    | poisoned =>
      refine ⟨⟨_, rfl⟩, inService_of_banks ?_⟩
      change ((countPoisoned src s).bank d).service = _
      rw [State.bank, banks_countPoisoned]
      rfl

theorem putCopyWrite_of_inService {j : CopyJob} {w : CopiedWord} {s : State} (h : s.inService j.bank = true) :
    putCopyWrite j w s = s.setEngine (.active { j with flight := .writeWaiting, word := some w }) := by
  simp only [putCopyWrite, h, if_true]

theorem putCopyWrite_of_outOfService {j : CopyJob} {w : CopiedWord} {s : State} (h : s.inService j.bank = false) :
    putCopyWrite j w s = s.setEngine (.ending { j with flight := .none, word := some w } .failure) := by
  simp only [putCopyWrite, h, Bool.false_eq_true, if_false]

/-! ## COPY_OPERATION_END -/

/-- The end of the engine's operation at the memory port. -/
theorem exec_copyOperationEnd_of_busy {s t u : State} {j : CopyJob} {n : Nat} {out : ReadOut}
    (hpin : s.pinAsserted = false) (hbusy : s.arbiter.busy = some ⟨.copy, n⟩) (hjob : s.copy.state.job = some j)
    (hrun : copyRun j none (s.setBusy none) = (out, t)) (hend : copyEnded s out t = some u) :
    exec .copyOperationEnd s = .next (settle s u) := by
  refine next_event_of_some hpin ?_
  simp only [copyOperationEnd, hbusy, hjob, hrun, hend]

theorem copyRun_reading {j : CopyJob} {s : State} (h : j.flight = .reading) :
    copyRun j none s
      = ((readAccess .copy j.bank j.sourceAddr none s).1, (readAccess .copy j.bank j.sourceAddr none s).2.2) := by
  simp only [copyRun, h]

theorem copyRun_writing {j : CopyJob} {s : State} (h : j.flight = .writing) :
    copyRun j none s = (.data 0, copyStore j s) := by
  simp only [copyRun, h, spend_none]

theorem copyEnded_reading {s t : State} {j : CopyJob} {out : ReadOut} {w : CopiedWord} (hs : s.copy.state = .active j)
    (hf : j.flight = .reading) (hw : copiedWord out = some w) : copyEnded s out t = some (putCopyWrite j w t) := by
  simp only [copyEnded, hs, hf, hw]

theorem copyEnded_writing {s t : State} {j : CopyJob} (hs : s.copy.state = .active j) (hf : j.flight = .writing) (v : Word) :
    copyEnded s (.data v) t = some (copyNext j t) := by
  simp only [copyEnded, hs, hf, copiedWord]

theorem copyEnded_draining {s t : State} {j : CopyJob} {out : ReadOut} (hs : s.copy.state = .draining j) :
    copyEnded s out t = some (engineIdle t) := by
  simp only [copyEnded, hs]

theorem copyStore_good {j : CopyJob} {v : Word} {s : State} (h : j.word = some ⟨v, false⟩) :
    copyStore j s = storeWord j.bank j.targetAddr v s := by
  simp only [copyStore, h, Bool.false_eq_true, if_false]

theorem copyStore_poisoned {j : CopyJob} {v : Word} {s : State} (h : j.word = some ⟨v, true⟩) :
    copyStore j s = storePoison j.targetAddr v s := by
  simp only [copyStore, h, if_true]

/-- A copy read of a word, in an engine that is ACTIVE. -/
theorem exec_copyOperationEnd_read {s t : State} {j : CopyJob} {n : Nat} {out : ReadOut} {w : CopiedWord}
    (hpin : s.pinAsserted = false) (hs : s.copy.state = .active j) (hf : j.flight = .reading)
    (hbusy : s.arbiter.busy = some ⟨.copy, n⟩)
    (hread : readAccess .copy j.bank j.sourceAddr none (s.setBusy none) = (out, none, t)) (hw : copiedWord out = some w)
    (hin : s.inService j.bank = true) :
    exec .copyOperationEnd s
      = .next (settle s (t.setEngine (.active { j with flight := .writeWaiting, word := some w }))) := by
  have hjob : s.copy.state.job = some j := by simp only [hs, EngineState.job]
  have hrun : copyRun j none (s.setBusy none) = (out, t) := (copyRun_reading hf).trans (by rw [hread])
  have hin' : t.inService j.bank = true := by
    have hgives := (readAccess_gives .copy j.bank j.bank j.sourceAddr (s.setBusy none)).2
    rw [hread] at hgives
    exact hgives.trans hin
  exact exec_copyOperationEnd_of_busy hpin hbusy hjob hrun
    ((copyEnded_reading hs hf hw).trans (congrArg some (putCopyWrite_of_inService hin')))

/-- A copy write, in an engine that is ACTIVE. -/
theorem exec_copyOperationEnd_write {s t : State} {j : CopyJob} {n : Nat} (hpin : s.pinAsserted = false)
    (hs : s.copy.state = .active j) (hf : j.flight = .writing) (hbusy : s.arbiter.busy = some ⟨.copy, n⟩)
    (ht : copyStore j (s.setBusy none) = t) :
    exec .copyOperationEnd s = .next (settle s (copyAdvance { j with next := j.next + 1 } t)) := by
  have hjob : s.copy.state.job = some j := by simp only [hs, EngineState.job]
  exact exec_copyOperationEnd_of_busy hpin hbusy hjob ((copyRun_writing hf).trans (by rw [ht]))
    (copyEnded_writing hs hf 0)

/-- The engine is IDLE, whatever its operation was. -/
theorem exec_copyOperationEnd_draining {s t : State} {j : CopyJob} {n : Nat} {out : ReadOut}
    (hpin : s.pinAsserted = false) (hs : s.copy.state = .draining j) (hbusy : s.arbiter.busy = some ⟨.copy, n⟩)
    (hrun : copyRun j none (s.setBusy none) = (out, t)) (hqueue : t.copy = s.copy) :
    exec .copyOperationEnd s = .next (settle s { t with copy := ⟨s.copy.queue, .idle, false⟩ }) := by
  have hjob : s.copy.state.job = some j := by simp only [hs, EngineState.job]
  refine exec_copyOperationEnd_of_busy hpin hbusy hjob hrun ((copyEnded_draining hs).trans ?_)
  rw [← hqueue]
  rfl

theorem CheckTouch.copy {s t : State} (h : CheckTouch s t) : t.copy = s.copy := by
  obtain ⟨m, l, k, e, c, r, g, rfl⟩ := h
  rfl

/-- The end of an operation that timed out. -/
theorem exec_copyOperationEnd_timedOut {s t : State} (hpin : s.pinAsserted = false) (hbusy : s.arbiter.busy = none)
    (ht : copyTimedOut s = some t) : exec .copyOperationEnd s = .next (settle s t) := by
  refine next_event_of_some hpin ?_
  simp only [copyOperationEnd, hbusy, ht]

/-! ## Reports -/

theorem isCopying_of_copying {ch : Channel} {n : Nat} (h : ch.copy = .copying n) : ch.isCopying = true := by
  simp only [Channel.isCopying, h]

theorem isCopying_eq_false {ch : Channel} (h : ∀ n, ch.copy ≠ .copying n) : ch.isCopying = false := by
  unfold Channel.isCopying
  cases hcopy : ch.copy with
  | copying n => exact absurd hcopy (h n)
  | none => rfl
  | queued => rfl

theorem exec_copyCompletion_copying {s : State} {j : CopyJob} {ch : Channel} {n : Nat} (hpin : s.pinAsserted = false)
    (hs : s.copy.state = .ending j .completion) (hch : s.chan j.channel = some ch) (hcopy : ch.copy = .copying n) :
    exec .copyCompletion s = .next (settle s (completeWaiting j.channel ch.copyEnded (engineIdle s))) := by
  refine next_event_of_some hpin ?_
  simp only [takeCompletion, hs, hch, isCopying_of_copying hcopy, if_true]

theorem exec_copyFailure_copying {s : State} {j : CopyJob} {ch : Channel} {n : Nat} (hpin : s.pinAsserted = false)
    (hs : s.copy.state = .ending j .failure) (hch : s.chan j.channel = some ch) (hcopy : ch.copy = .copying n) :
    exec .copyFailure s = .next (settle s (raiseChannel j.channel .abandoned
      (answerWaiting ch.config.writer j.channel .abandoned
        ((engineIdle s).setChan j.channel (some ch.fillingEnded))))) := by
  refine next_event_of_some hpin ?_
  simp only [takeFailure, hs, hch, isCopying_of_copying hcopy, if_true]

theorem completeWaiting_of_none {c : ChanId} {ch : Channel} {s : State} (h : ch.waiting = none) :
    completeWaiting c ch s = s.setChan c (some ch) := by
  unfold completeWaiting
  rw [h]
  cases ch.filling <;> rfl

theorem completeWaiting_of_some {c : ChanId} {ch : Channel} {s : State} {i : Fin 8} {tag : Word} {a : Access}
    (hfill : ch.filling = some i) (hwait : ch.waiting = some tag)
    (hphase : (s.port ch.config.writer).phase = .waitingCommit a c) :
    completeWaiting c ch s = carryOutCommit ch.config.writer a c { ch with waiting := none } i tag s := by
  simp only [completeWaiting, hfill, hwait, hphase, if_true]

end Sys2Proof.Machine

namespace Sys2Proof.Proofs

open Sys2Proof Sys2Proof.Machine

/-- Settles O37: the copy begins at offset 1, or ends where every offset is claimed. -/
theorem copyTakesHead : Obligations.CopyTakesHead := by
  refine ⟨fun s c rest ch t k b hpin hcopy hch hfill hsrc hbank => ?_, fun s hpin hnotice => ?_⟩
  · have hch1 : ({ s.setChan c (some { ch with copy := .copying 1 }) with copy := ⟨rest, .idle, false⟩ } : State).chan c
        = some { ch with copy := .copying 1 } := chan_setChan_same s c _
    refine ⟨fun x hx1 hx hfree => ?_, fun hlen hall => ?_⟩
    · refine exec_copyTakeHead hpin hcopy hch hfill hsrc hbank (beginCopy_active (Nat.lt_of_le_of_lt ?_ hx))
      exact skipClaimed_le hx ((jobClaimed_of_chan hch1 x).trans hfree) _ _ hx1
    · refine exec_copyTakeHead hpin hcopy hch hfill hsrc hbank ((beginCopy_done hch1 rfl hlen hall).trans ?_)
      exact congrArg (fun v : Vector (Option Channel) 16 => ({ s with
          channels := v
          copy := ⟨rest, .ending ⟨c, k, t, ch.config.len, .none, none, ch.config.len, b, ch.config.slotAddr k,
            ch.config.slotAddr t⟩ .completion, false⟩ } : State)) (vector_set_set s.channels c _ _)
  · refine ⟨fun j hs hf => ?_, fun j hs hf => ?_, fun j r hs => ?_⟩
    · refine next_event_of_some hpin ?_
      simp only [takeAbortNotice, hnotice, if_true, hs, if_neg hf]
      rfl
    · refine next_event_of_some hpin ?_
      simp only [takeAbortNotice, hnotice, if_true, hs, hf]
      rfl
    · refine next_event_of_some hpin ?_
      simp only [takeAbortNotice, hnotice, if_true, hs]

/-- Settles O38: by what the read access or the write does, and the engine's next offset. -/
theorem copyOperationEnds : Obligations.CopyOperationEnds := by
  refine ⟨?clean, ?poisoned, ?bad, ?failed, ?write, ?advance, ?timedOut, ?draining⟩
  case clean =>
    intro s j n hpin hs hf hbusy hin hclean
    exact exec_copyOperationEnd_read hpin hs hf hbusy (readAccess_clean (s := s.setBusy none) hclean) rfl hin
  case poisoned =>
    intro s j n hpin hs hf hbusy hin hp hclass
    exact exec_copyOperationEnd_read hpin hs hf hbusy (readAccess_poisoned (s := s.setBusy none) hp hclass) rfl hin
  case bad =>
    intro s j n hpin hs hf hbusy hin hp
    exact ⟨fun v hclass =>
        exec_copyOperationEnd_read hpin hs hf hbusy (readAccess_corrected (s := s.setBusy none) hp hclass) rfl hin,
      fun hclass =>
        exec_copyOperationEnd_read hpin hs hf hbusy (readAccess_uncorrectable (s := s.setBusy none) hp hclass) rfl hin⟩
  case failed =>
    intro s j n hpin hs hf hbusy hout
    obtain ⟨⟨w, hw⟩, hservice⟩ := readAccess_gives .copy j.bank j.bank j.sourceAddr (s.setBusy none)
    have hjob : s.copy.state.job = some j := by simp only [hs, EngineState.job]
    refine ⟨some w, exec_copyOperationEnd_of_busy hpin hbusy hjob (copyRun_reading hf) ?_⟩
    rw [copyEnded_reading hs hf hw, putCopyWrite_of_outOfService (hservice.trans hout)]
  case write =>
    intro s j n v hpin hs hf hbusy
    exact ⟨fun hw => exec_copyOperationEnd_write hpin hs hf hbusy (copyStore_good hw),
      fun hw => exec_copyOperationEnd_write hpin hs hf hbusy (copyStore_poisoned hw)⟩
  case advance =>
    intro s j ch n hch hcopy
    refine ⟨fun hlt hc => copyAdvance_claimed hlt ((jobClaimed_of_chan hch _).trans hc), fun hlt hc hin => ?_,
      fun hlt hc hout => ?_, fun hend => ?_⟩
    · exact copyAdvance_read hch hcopy (skipClaimed_unclaimed hlt ((jobClaimed_of_chan hch _).trans hc)) hlt hin
    · exact copyAdvance_failure hch hcopy (skipClaimed_unclaimed hlt ((jobClaimed_of_chan hch _).trans hc)) hlt hout
    · rw [copyAdvance_completion hch hcopy ((skipClaimed_end hend _).trans hend), ← hend]
  case timedOut =>
    intro s j hpin hbusy hf
    refine ⟨fun hs => exec_copyOperationEnd_timedOut hpin hbusy ?_, fun hs => exec_copyOperationEnd_timedOut hpin hbusy ?_⟩
    · simp only [copyTimedOut, hs, hf, if_true]
      rfl
    · simp only [copyTimedOut, hs, hf, if_true]
      rfl
  case draining =>
    intro s j n hpin hs hbusy
    have hread := readAccess_touches .copy j.bank j.sourceAddr none (s.setBusy none)
    refine ⟨fun hf hclean => ?_, fun hf => ?_, fun v hf hw => ?_, fun v hf hw => ?_⟩
    · exact exec_copyOperationEnd_draining hpin hs hbusy ((copyRun_reading hf).trans
        (congrArg (fun r => (r.1, r.2.2)) (readAccess_clean (s := s.setBusy none) hclean))) rfl
    · exact exec_copyOperationEnd_draining hpin hs hbusy (copyRun_reading hf) hread.copy
    · exact exec_copyOperationEnd_draining hpin hs hbusy ((copyRun_writing hf).trans (by rw [copyStore_good hw])) rfl
    · exact exec_copyOperationEnd_draining hpin hs hbusy ((copyRun_writing hf).trans (by rw [copyStore_poisoned hw])) rfl

/-- Settles O39: a report acts on its channel exactly while that is COPYING. -/
theorem copyReportsTaken : Obligations.CopyReportsTaken := by
  refine ⟨?completion, ?failure, ?ignored, ?waiting⟩
  case completion =>
    intro s j ch n hpin hs hch hcopy hwait
    rw [exec_copyCompletion_copying hpin hs hch hcopy, completeWaiting_of_none (ch := ch.copyEnded) hwait]
    rfl
  case failure =>
    intro s j ch n i hpin hs hch hcopy hfill
    refine ⟨_, rfl, fun hnone => ?_, fun a hphase => ?_⟩
    · rw [exec_copyFailure_copying hpin hs hch hcopy, answerWaiting_of_not_waiting (by exact hnone),
        Channel.fillingEnded_of_filling hfill]
      rfl
    · rw [exec_copyFailure_copying hpin hs hch hcopy, answerWaiting_of_waiting (by exact hphase),
        Channel.fillingEnded_of_filling hfill]
      rfl
  case ignored =>
    intro s j hpin hnot
    refine ⟨fun hs => next_event_of_some hpin ?_, fun hs => next_event_of_some hpin ?_⟩
    · cases hch : s.chan j.channel with
      | none => simp only [takeCompletion, hs, hch]; rfl
      | some ch =>
        simp only [takeCompletion, hs, hch, isCopying_eq_false fun n => hnot ch n hch, Bool.false_eq_true, if_false]
        rfl
    · cases hch : s.chan j.channel with
      | none => simp only [takeFailure, hs, hch]; rfl
      | some ch =>
        simp only [takeFailure, hs, hch, isCopying_eq_false fun n => hnot ch n hch, Bool.false_eq_true, if_false]
        rfl
  case waiting =>
    intro s j ch n i tag a hpin hs hch hcopy hfill hwait hphase
    rw [exec_copyCompletion_copying hpin hs hch hcopy,
      completeWaiting_of_some (ch := ch.copyEnded) (s := engineIdle s) hfill hwait hphase]
    rfl

end Sys2Proof.Proofs
end

section
/-! PROOF. Event flags: posting, clearing and acknowledging them, and the lines. -/

namespace Sys2Proof.Machine

open Sys2Proof

theorem mem_globalBits (n : Fin 9) : n ∈ globalBits := by
  revert n
  decide

theorem mem_channelBits (n : Fin 7) : n ∈ channelBits := by
  revert n
  decide

theorem nodup_globalBits : globalBits.Nodup := by decide

theorem nodup_channelBits : channelBits.Nodup := by decide

/-! ## Posting -/

/-- A step repeated over a list of bits, read at a bit of the list: its own round alone counts. -/
theorem foldl_bit_mem {α β : Type} [DecidableEq α] (f : State → α → State) (get : State → β) (a : α) (g : β → β)
    (own : ∀ s, get (f s a) = g (get s)) (other : ∀ s x, x ≠ a → get (f s x) = get s) :
    ∀ (l : List α) (s : State), l.Nodup → a ∈ l → get (l.foldl f s) = g (get s) := by
  intro l
  induction l with
  | nil => exact fun _ _ h => absurd h List.not_mem_nil
  | cons x xs ih =>
    intro s hn ha
    obtain ⟨hx, hxs⟩ := List.nodup_cons.1 hn
    rw [List.foldl_cons]
    by_cases hxa : x = a
    · subst hxa
      rw [foldl_bit f get x other xs _ hx, own]
    · rw [ih _ hxs ((List.mem_cons.1 ha).resolve_left fun e => hxa e.symm), other s x hxa]

/-- The stage of a flag after a mirror write that carried some bits has completed. -/
def postedStage (carried : Bool) (g : Stage) : Stage :=
  if carried = true ∧ g = .pending then .posted else g

theorem globalStage_postGlobalBit (l : Port) (carried : List Nat) (n k : Fin 9) (s : State) :
    (postGlobalBit l carried n s).globalStage l k =
      if k = n then postedStage (carried.contains n.val) (s.globalStage l n) else s.globalStage l k := by
  unfold postGlobalBit postedStage
  by_cases hk : k = n
  · subst hk
    simp only [Bool.and_eq_true, beq_iff_eq, if_true]
    split
    · rw [globalStage_setGlobalStage_same]
    · rfl
  · rw [if_neg hk]
    split
    · exact globalStage_setGlobalStage_ne _ _ (.inr hk)
    · rfl

theorem channelStage_postChannelBit (c : ChanId) (carried : List Nat) (n k : Fin 7) (s : State) :
    (postChannelBit c carried n s).channelStage c k =
      if k = n then postedStage (carried.contains n.val) (s.channelStage c n) else s.channelStage c k := by
  unfold postChannelBit postedStage
  by_cases hk : k = n
  · subst hk
    simp only [Bool.and_eq_true, beq_iff_eq, if_true]
    split
    · rw [channelStage_setChannelStage_same]
    · rfl
  · rw [if_neg hk]
    split
    · exact channelStage_setChannelStage_ne _ _ (.inr hk)
    · rfl

theorem postFlags_global (l : Port) (carried : List Nat) (s : State) :
    postFlags (14 + portNat l) carried s = globalBits.foldl (fun t n => postGlobalBit l carried n t) s := by
  cases l <;> rfl

theorem postFlags_channel (c : ChanId) (carried : List Nat) (s : State) :
    postFlags (16 + c.val) carried s = channelBits.foldl (fun t n => postChannelBit c carried n t) s := by
  have hc := c.isLt
  have hd : ∀ h, (⟨16 + c.val - 16, h⟩ : ChanId) = c := fun h => Fin.ext (by simp)
  unfold postFlags
  rw [if_neg (by omega), if_neg (by omega), dif_pos (by omega)]
  simp only [hd]

theorem globalStage_postFlags (l : Port) (carried : List Nat) (n : Fin 9) (s : State) :
    (postFlags (14 + portNat l) carried s).globalStage l n =
      postedStage (carried.contains n.val) (s.globalStage l n) := by
  rw [postFlags_global]
  exact foldl_bit_mem (fun t k => postGlobalBit l carried k t) (fun t => t.globalStage l n) n
    (postedStage (carried.contains n.val)) (fun t => (globalStage_postGlobalBit l carried n n t).trans (if_pos rfl))
    (fun t x hx => (globalStage_postGlobalBit l carried x n t).trans (if_neg fun e => hx e.symm)) globalBits s
    nodup_globalBits (mem_globalBits n)

theorem channelStage_postFlags (c : ChanId) (carried : List Nat) (n : Fin 7) (s : State) :
    (postFlags (16 + c.val) carried s).channelStage c n =
      postedStage (carried.contains n.val) (s.channelStage c n) := by
  rw [postFlags_channel]
  exact foldl_bit_mem (fun t k => postChannelBit c carried k t) (fun t => t.channelStage c n) n
    (postedStage (carried.contains n.val)) (fun t => (channelStage_postChannelBit c carried n n t).trans (if_pos rfl))
    (fun t x hx => (channelStage_postChannelBit c carried x n t).trans (if_neg fun e => hx e.symm)) channelBits s
    nodup_channelBits (mem_channelBits n)

/-! ## What a write in flight carries -/

/-- A request after a flag of the word at `off` was cleared. -/
def droppedFrom (off bit : Nat) : MirrorRequest → MirrorRequest
  | .inFlight w =>
    if w.off = off then .inFlight { w with carried := w.carried.filter (fun n => n != bit) } else .inFlight w
  | .none => .none
  | .waiting k => .waiting k
  | .timedOut k => .timedOut k

theorem request_dropCarried (off bit : Nat) (s : State) :
    (dropCarried off bit s).mirror.request = droppedFrom off bit s.mirror.request := by
  unfold dropCarried droppedFrom
  cases hr : s.mirror.request with
  | inFlight w =>
    dsimp only
    split
    · rfl
    · exact hr
  | none => exact hr
  | waiting k => exact hr
  | timedOut k => exact hr

theorem droppedFrom_other {off : Nat} {q : MirrorRequest} (h : ∀ w, q = .inFlight w → w.off ≠ off) :
    ∀ ks : List Nat, ks.foldl (fun r k => droppedFrom off k r) q = q := by
  have hone : ∀ k, droppedFrom off k q = q := by
    intro k
    cases q with
    | inFlight w => exact if_neg (h w rfl)
    | none => rfl
    | waiting j => rfl
    | timedOut j => rfl
  intro ks
  induction ks with
  | nil => rfl
  | cons k ks ih => rw [List.foldl_cons, hone, ih]

theorem droppedFrom_own {off : Nat} :
    ∀ (ks : List Nat) (w : MirrorWrite), w.off = off →
      ks.foldl (fun r k => droppedFrom off k r) (.inFlight w)
        = .inFlight { w with carried := w.carried.filter (fun x => !ks.contains x) } := by
  intro ks
  induction ks with
  | nil =>
    intro w _
    have hall : w.carried.filter (fun x => !([] : List Nat).contains x) = w.carried := by simp
    rw [hall]
    rfl
  | cons k ks ih =>
    intro w hw
    have hone : droppedFrom off k (.inFlight w)
        = .inFlight { w with carried := w.carried.filter (fun n => n != k) } := if_pos hw
    rw [List.foldl_cons, hone]
    refine (ih { w with carried := w.carried.filter (fun n => n != k) } hw).trans ?_
    have hfilter : (w.carried.filter (fun n => n != k)).filter (fun x => !ks.contains x)
        = w.carried.filter (fun x => !(k :: ks).contains x) := by
      rw [List.filter_filter]
      refine List.filter_congr fun x _ => ?_
      rw [List.contains_cons, Bool.not_or, Bool.and_comm]
      rfl
    exact congrArg (fun l => MirrorRequest.inFlight { w with carried := l }) hfilter

/-! ## Several flags cleared -/

theorem request_clearGlobal (l : Port) (n : Fin 9) (s : State) :
    (clearGlobal l n s).mirror.request = droppedFrom (14 + portNat l) n.val s.mirror.request :=
  request_dropCarried (14 + portNat l) n.val (s.setGlobalStage l n .clear)

theorem request_clearChannelFlag (c : ChanId) (n : Fin 7) (s : State) :
    (clearChannelFlag c n s).mirror.request = droppedFrom (16 + c.val) n.val s.mirror.request :=
  request_dropCarried (16 + c.val) n.val (s.setChannelStage c n .clear)

theorem request_foldl_clearGlobal (l : Port) :
    ∀ (bits : List (Fin 9)) (s : State),
      (bits.foldl (fun t n => clearGlobal l n t) s).mirror.request
        = (bits.map (·.val)).foldl (fun r k => droppedFrom (14 + portNat l) k r) s.mirror.request := by
  intro bits
  induction bits with
  | nil => exact fun _ => rfl
  | cons n bits ih =>
    intro s
    rw [List.foldl_cons, ih, List.map_cons, List.foldl_cons, request_clearGlobal]

theorem request_foldl_clearChannelFlag (c : ChanId) :
    ∀ (bits : List (Fin 7)) (s : State),
      (bits.foldl (fun t n => clearChannelFlag c n t) s).mirror.request
        = (bits.map (·.val)).foldl (fun r k => droppedFrom (16 + c.val) k r) s.mirror.request := by
  intro bits
  induction bits with
  | nil => exact fun _ => rfl
  | cons n bits ih =>
    intro s
    rw [List.foldl_cons, ih, List.map_cons, List.foldl_cons, request_clearChannelFlag]

theorem globalStage_foldl_clearGlobal (l m : Port) (k : Fin 9) :
    ∀ (bits : List (Fin 9)) (s : State),
      (bits.foldl (fun t n => clearGlobal l n t) s).globalStage m k
        = if m = l ∧ k ∈ bits then .clear else s.globalStage m k := by
  intro bits
  induction bits with
  | nil => exact fun s => (if_neg fun h => List.not_mem_nil h.2).symm
  | cons n bits ih =>
    intro s
    rw [List.foldl_cons, ih, globalStage_clearGlobal]
    by_cases hm : m = l <;> by_cases hk : k = n <;> by_cases hb : k ∈ bits <;> simp [hm, hk, hb]

theorem channelStage_foldl_clear (c d : ChanId) (k : Fin 7) :
    ∀ (bits : List (Fin 7)) (s : State),
      (bits.foldl (fun t n => clearChannelFlag c n t) s).channelStage d k
        = if d = c ∧ k ∈ bits then .clear else s.channelStage d k := by
  intro bits
  induction bits with
  | nil => exact fun s => (if_neg fun h => List.not_mem_nil h.2).symm
  | cons n bits ih =>
    intro s
    rw [List.foldl_cons, ih, channelStage_clearChannelFlag]
    by_cases hd : d = c <;> by_cases hk : k = n <;> by_cases hb : k ∈ bits <;> simp [hd, hk, hb]

/-! ## Acknowledgements -/

/-- A round over bits under a test that no round changes goes over the bits that pass it. -/
theorem foldl_ite_filter {α : Type} (f : State → α → State) (test : State → α → Bool)
    (hkeep : ∀ s x, test (f s x) = test s) :
    ∀ (l : List α) (s : State),
      l.foldl (fun t x => if test t x = true then f t x else t) s = (l.filter (test s)).foldl f s := by
  intro l
  induction l with
  | nil => exact fun _ => rfl
  | cons x xs ih =>
    intro s
    rw [List.foldl_cons, List.filter_cons]
    split
    · rw [ih, List.foldl_cons, hkeep]
    · exact ih s

/-- The bits of a global ack word that clear their flags. -/
def globalAcked (w : Word) (s : State) (n : Fin 9) : Bool :=
  w.getLsbD n.val && !(n == GlobalFlag.bankFenced.bit && someBankFenced s)

/-- The bits of the channel ack word that clear the flags of the channel it names. -/
def channelAcked (c : ChanId) (w : Word) (s : State) (n : Fin 7) : Bool :=
  w.getLsbD (8 + n.val) && !(n == ChannelFlag.stale.bit && channelStale s c)

theorem ackGlobal_eq (l : Port) (w : Word) (s : State) :
    ackGlobal l w s = (globalBits.filter (globalAcked w s)).foldl (fun t n => clearGlobal l n t) s := by
  refine foldl_ite_filter (fun t n => clearGlobal l n t) (globalAcked w) (fun t n => ?_) globalBits s
  obtain ⟨g, q, h⟩ := clearGlobal_touches l n t
  change globalAcked w (clearGlobal l n t) = _
  rw [h]
  rfl

theorem ackChannel_of_configured {w : Word} {s : State} {c : ChanId} {ch : Channel} (hw : w.toNat % 256 = c.val)
    (hch : s.chan c = some ch) :
    ackChannel w s = (channelBits.filter (channelAcked c w s)).foldl (fun t n => clearChannelFlag c n t) s := by
  have hbits : bitsOf w 0 8 = c.val := by
    rw [← hw]
    simp [bitsOf]
  have hid : ∀ h, (⟨bitsOf w 0 8, h⟩ : ChanId) = c := fun h => Fin.ext hbits
  have hsome : (s.channels.get c).isSome = true := by
    change (s.chan c).isSome = true
    rw [hch]
    rfl
  have hack : ackChannel w s = channelBits.foldl (fun t n => ackChannelBit c w n t) s := by
    unfold ackChannel
    rw [dif_pos (by rw [hbits]; exact c.isLt)]
    simp only [hid, hsome, if_true]
  rw [hack]
  refine foldl_ite_filter (fun t n => clearChannelFlag c n t) (channelAcked c w) (fun t n => ?_) channelBits s
  obtain ⟨g, q, h⟩ := clearChannelFlag_touches c n t
  change channelAcked c w (clearChannelFlag c n t) = _
  rw [h]
  rfl

theorem ackChannel_of_unconfigured {w : Word} {s : State} {c : ChanId} (hw : w.toNat % 256 = c.val)
    (hch : s.chan c = none) : ackChannel w s = s := by
  have hbits : bitsOf w 0 8 = c.val := by
    rw [← hw]
    simp [bitsOf]
  have hid : ∀ h, (⟨bitsOf w 0 8, h⟩ : ChanId) = c := fun h => Fin.ext hbits
  have hnone : (s.channels.get c).isSome = false := by
    change (s.chan c).isSome = false
    rw [hch]
    rfl
  unfold ackChannel
  rw [dif_pos (by rw [hbits]; exact c.isLt)]
  simp only [hid, hnone, Bool.false_eq_true, if_false]

theorem ackChannel_of_high {w : Word} {s : State} (hw : 16 ≤ w.toNat % 256) : ackChannel w s = s := by
  have hbits : bitsOf w 0 8 = w.toNat % 256 := by simp [bitsOf]
  exact dif_neg (by omega)

/-- Every channel ack word names a configured channel, an entry that is not, or none. -/
theorem ackChannel_cases (w : Word) (s : State) :
    ackChannel w s = s ∨ ∃ c ch, w.toNat % 256 = c.val ∧ s.chan c = some ch := by
  by_cases hw : w.toNat % 256 < 16
  · cases hch : s.chan ⟨w.toNat % 256, hw⟩ with
    | none => exact .inl (ackChannel_of_unconfigured rfl hch)
    | some ch => exact .inr ⟨⟨w.toNat % 256, hw⟩, ch, rfl, hch⟩
  · exact .inl (ackChannel_of_high (by omega))

theorem someBankFenced_iff {s : State} : someBankFenced s = true ↔ ∃ b, (s.bank b).service = .fenced := by
  simp only [someBankFenced, List.any_eq_true, beq_iff_eq]
  exact ⟨fun ⟨b, _, h⟩ => ⟨b, h⟩, fun ⟨b, h⟩ => ⟨b, mem_bankIds b, h⟩⟩

theorem globalAcked_iff {w : Word} {s : State} {n : Fin 9} :
    globalAcked w s n = true ↔ w.getLsbD n.val = true ∧ ¬ (n = 6 ∧ ∃ b, (s.bank b).service = .fenced) := by
  rw [← someBankFenced_iff]
  simp only [globalAcked, Bool.and_eq_true, Bool.not_eq_true', GlobalFlag.bit, Bool.and_eq_false_iff]
  by_cases hn : n = 6 <;> simp [hn]

theorem channelAcked_iff {w : Word} {s : State} {c : ChanId} {ch : Channel} {n : Fin 7} (hch : s.chan c = some ch) :
    channelAcked c w s n = true ↔ w.getLsbD (8 + n.val) = true ∧ ¬ (n = 1 ∧ ch.state = .stale) := by
  have hstale : channelStale s c = true ↔ ch.state = .stale := by
    change (match s.chan c with | some ch => ch.state == .stale | none => false) = true ↔ _
    rw [hch]
    exact beq_iff_eq
  rw [← hstale]
  simp only [channelAcked, Bool.and_eq_true, Bool.not_eq_true', ChannelFlag.bit, Bool.and_eq_false_iff]
  by_cases hn : n = 1 <;> simp [hn]

theorem mem_globalAcked {w : Word} {s : State} {n : Fin 9} :
    n ∈ globalBits.filter (globalAcked w s) ↔
      w.getLsbD n.val = true ∧ ¬ (n = 6 ∧ ∃ b, (s.bank b).service = .fenced) := by
  rw [List.mem_filter, globalAcked_iff]
  exact and_iff_right (mem_globalBits n)

theorem mem_channelAcked {w : Word} {s : State} {c : ChanId} {ch : Channel} {n : Fin 7} (hch : s.chan c = some ch) :
    n ∈ channelBits.filter (channelAcked c w s) ↔ w.getLsbD (8 + n.val) = true ∧ ¬ (n = 1 ∧ ch.state = .stale) := by
  rw [List.mem_filter, channelAcked_iff hch]
  exact and_iff_right (mem_channelBits n)

/-- What is left carried of a word: the bits not among those cleared. -/
theorem mem_kept {k : Nat} {n : Fin k} {bits : List (Fin k)} {carried : List Nat} :
    n.val ∈ carried.filter (fun x => !(bits.map (·.val)).contains x) ↔ n.val ∈ carried ∧ n ∉ bits := by
  have hmap : n.val ∈ bits.map (·.val) ↔ n ∈ bits := by
    rw [List.mem_map]
    exact ⟨fun ⟨x, hx, he⟩ => Fin.ext he ▸ hx, fun h => ⟨n, h, rfl⟩⟩
  rw [List.mem_filter, Bool.not_eq_true', ← Bool.not_eq_true, List.contains_iff_mem, hmap]

end Sys2Proof.Machine
end

section
/-! PROOF. The control block unit's steps: the mirror writer, the lines, and the handovers of BCB words. -/

namespace Sys2Proof.Machine

open Sys2Proof

/-! ## The next offset to serve -/

theorem find_of_ascending {f : Nat → Bool} {x : Nat} :
    ∀ {l : List Nat}, ascending l → x ∈ l → f x = true → (∀ k ∈ l, f k = true → x ≤ k) → l.find? f = some x
  | [], _, hx, _, _ => absurd hx List.not_mem_nil
  | y :: ys, h, hx, hf, hmin => by
    rw [List.find?_cons]
    cases hy : f y with
    | true =>
      have hle := hmin y (List.mem_cons_self ..) hy
      have hxy : x = y := by
        rcases List.mem_cons.1 hx with e | e
        · exact e
        · have := h.1 x e
          omega
      rw [hxy]
    | false =>
      have hne : x ≠ y := fun e => by rw [e, hy] at hf; cases hf
      exact find_of_ascending h.2 ((List.mem_cons.1 hx).resolve_left hne) hf
        fun k hk => hmin k (List.mem_cons_of_mem _ hk)

theorem head_of_ascending {x : Nat} : ∀ {l : List Nat}, ascending l → x ∈ l → (∀ k ∈ l, x ≤ k) → l.head? = some x
  | [], _, hx, _ => absurd hx List.not_mem_nil
  | y :: ys, h, hx, hmin => by
    have hle := hmin y (List.mem_cons_self ..)
    rcases List.mem_cons.1 hx with e | e
    · rw [e]
      rfl
    · have := h.1 x e
      omega

theorem nextDirty_above {m : Mirror} {off : Nat} (hord : ascending m.dirty) (hmem : off ∈ m.dirty) (hlast : m.last < off)
    (hmin : ∀ k ∈ m.dirty, m.last < k → off ≤ k) : nextDirty m = some off := by
  have hfind : m.dirty.find? (fun k => decide (m.last < k)) = some off :=
    find_of_ascending hord hmem (decide_eq_true hlast) fun k hk h => hmin k hk (of_decide_eq_true h)
  simp only [nextDirty, hfind]

theorem nextDirty_around {m : Mirror} {off : Nat} (hord : ascending m.dirty) (hmem : off ∈ m.dirty)
    (hall : ∀ k ∈ m.dirty, k ≤ m.last ∧ off ≤ k) : nextDirty m = some off := by
  have hfind : m.dirty.find? (fun k => decide (m.last < k)) = none := by
    refine List.find?_eq_none.2 fun k hk h => ?_
    have := hall k hk
    have := of_decide_eq_true h
    omega
  simp only [nextDirty, hfind, head_of_ascending hord hmem fun k hk => (hall k hk).2]

theorem exec_mirrorWriteRequest_of_next {s : State} {off : Nat} (hop : s.operating) (hr : s.mirror.request = .none)
    (hin : s.bcbInService = true) (hnext : nextDirty s.mirror = some off) :
    exec .mirrorWriteRequest s
      = .next (settle s { s with mirror := { s.mirror with request := .waiting off } }) := by
  refine next_event_of_some hop.1 ?_
  rw [mirrorRequest, if_pos ⟨hop.2, hr, hin⟩, hnext]
  rfl

theorem exec_mirrorWriteEnd_of_inFlight {s : State} {w : MirrorWrite} {n : Nat} (hpin : s.pinAsserted = false)
    (hr : s.mirror.request = .inFlight w) (hbusy : s.arbiter.busy = some ⟨.mirror, n⟩) :
    exec .mirrorWriteEnd s = .next (settle s (mirrorCompleted w (s.setBusy none))) := by
  refine next_event_of_some hpin ?_
  simp only [mirrorWriteEnd, hr, hbusy]

theorem mirrorCompleted_of_inService {w : MirrorWrite} {s : State} (h : s.inService w.bank = true) :
    mirrorCompleted w s = postFlags w.off w.carried
      (storeWord w.bank w.addr w.value { s with mirror := { s.mirror with request := .none } }) := by
  simp only [mirrorCompleted, h, if_true]

theorem mirrorCompleted_of_nothing {w : MirrorWrite} {s : State} (h : s.inService w.bank = false) (hc : w.carried = []) :
    mirrorCompleted w s = storeWord w.bank w.addr w.value { s with mirror := { s.mirror with request := .none } } := by
  simp only [mirrorCompleted, h, Bool.false_eq_true, if_false, if_pos hc]

theorem mirrorCompleted_of_carried {w : MirrorWrite} {s : State} (h : s.inService w.bank = false) (hc : w.carried ≠ []) :
    mirrorCompleted w s = markDirty w.off
      (storeWord w.bank w.addr w.value { s with mirror := { s.mirror with request := .none } }) := by
  simp only [mirrorCompleted, h, Bool.false_eq_true, if_false, if_neg hc]

/-! ## The lines -/

theorem globalAsserts_iff {s : State} {l : Port} {n : Fin 9} :
    globalAsserts s l n = true ↔ s.globalStage l n = .posted ∧ (s.globalMask.get l).getLsbD n.val = true := by
  simp only [globalAsserts, Bool.and_eq_true, beq_iff_eq]

theorem channelAsserts_iff {s : State} {l : Port} {c : ChanId} {n : Fin 7} :
    channelAsserts s l c n = true ↔
      ∃ ch, s.chan c = some ch ∧ s.channelStage c n = .posted ∧ (s.channelMask.get l).getLsbD c.val = true
        ∧ (if n.val < 3 then ch.config.reader else ch.config.writer) = l := by
  unfold channelAsserts State.chan
  cases s.channels.get c with
  | none => simp
  | some ch => simp [flagLine, and_assoc]

theorem line_iff {s : State} {l : Port} :
    s.line l = true ↔
      (∃ n : Fin 9, s.globalStage l n = .posted ∧ (s.globalMask.get l).getLsbD n.val = true)
      ∨ (∃ (c : ChanId) (ch : Channel) (n : Fin 7), s.chan c = some ch ∧ s.channelStage c n = .posted
          ∧ (s.channelMask.get l).getLsbD c.val = true
          ∧ (if n.val < 3 then ch.config.reader else ch.config.writer) = l) := by
  simp only [State.line, Bool.or_eq_true, List.any_eq_true, globalAsserts_iff, channelAsserts_iff]
  refine or_congr ⟨fun ⟨n, _, h⟩ => ⟨n, h⟩, fun ⟨n, h⟩ => ⟨n, mem_globalBits n, h⟩⟩ ⟨?_, ?_⟩
  · rintro ⟨c, _, n, _, ch, h⟩
    exact ⟨c, ch, n, h⟩
  · rintro ⟨c, ch, n, h⟩
    exact ⟨c, mem_chanIds c, n, mem_channelBits n, ch, h⟩

/-! ## Handovers -/

theorem acceptCommand_idle {p : Port} {w : Word} {s : State} (h : (s.command p).state = .idle) (hl : s.device ≠ .loading) :
    acceptCommand p w s = markDirty (4 + portNat p)
      { s.setCommand p ⟨.pending w s.nextStamp, w, .pending, none⟩ with nextStamp := s.nextStamp + 1 } := by
  unfold acceptCommand
  rw [h]
  exact if_neg hl

theorem commandCode_eq (w : Word) : commandCode w = w.toNat % 256 := by
  simp [commandCode, bitsOf]

/-- A handover taken by the step of its word. -/
theorem event_takeHandover {s t : State} {p : Port} {a : Access} {off : Nat} {v : Word} {e : Option FaultCode}
    {mine : Nat → Bool} {effect : Nat → Word → State → State} (hpin : s.pinAsserted = false)
    (hphase : (s.port p).phase = .handover a off v e) (hmine : mine off = true) (ht : effect off v s = t) :
    event s (takeHandover p mine effect)
      = settle s (giveAnswer p a ⟨[], e⟩ a.addr a.locked (settle s t)) := by
  refine event_of_some hpin ?_
  simp only [takeHandover, hphase, hmine, if_true, ht]

theorem writeCaptureAck_eq (off : Nat) (v : Word) (s : State) :
    writeCaptureAck off v s =
      { s with
        ports :=
          ⟨if v.getLsbD 0 = true then captureEmptied s.ports.first else s.ports.first,
            if v.getLsbD 1 = true then captureEmptied s.ports.second else s.ports.second⟩
        memCapture := if v.getLsbD 2 = true then ⟨none, 0⟩ else s.memCapture } := by
  unfold writeCaptureAck
  cases v.getLsbD 0 <;> cases v.getLsbD 1 <;> cases v.getLsbD 2 <;> rfl

theorem writeStaging_own (p : Port) (k : Fin 16) (v : Word) (s : State) :
    writeStaging p (32 + 16 * portNat p + k.val) v s
      = { s with staging := s.staging.set p ((s.staging.get p).set k v) } := by
  have hk : 32 + 16 * portNat p + k.val - (32 + 16 * portNat p) = k.val := Nat.add_sub_cancel_left ..
  unfold writeStaging
  simp only [hk, k.isLt, dif_pos]

theorem stagingOffset_own (p : Port) (k : Fin 16) : stagingOffset p (32 + 16 * portNat p + k.val) = true := by
  have hk := k.isLt
  simp only [stagingOffset, Bool.and_eq_true, decide_eq_true_eq]
  omega

/-- A raised flag that was CLEAR is PENDING. -/
theorem globalStage_raiseGlobal {l : Port} {f : GlobalFlag} {s : State} (h : s.globalStage l f.bit = .clear) :
    (raiseGlobal l f s).globalStage l f.bit = .pending := by
  rw [raiseGlobal, if_pos h, globalStage_setGlobalStage_same]

theorem channelStage_raiseChannel {c : ChanId} {f : ChannelFlag} {s : State} (h : s.channelStage c f.bit = .clear) :
    (raiseChannel c f s).channelStage c f.bit = .pending := by
  rw [raiseChannel, if_pos h, channelStage_setChannelStage_same]

end Sys2Proof.Machine

namespace Sys2Proof.Proofs

open Sys2Proof Sys2Proof.Machine

/-- Settles O40: the set is ascending, so the first offset above the last served is the least; a completed write stores
its word and posts what it carried. -/
theorem mirrorWriter : Obligations.MirrorWriter := by
  refine ⟨fun s off hop hr hin hmem hlast hmin hord =>
      exec_mirrorWriteRequest_of_next hop hr hin (nextDirty_above hord hmem hlast hmin),
    fun s off hop hr hin hmem hall hord => exec_mirrorWriteRequest_of_next hop hr hin (nextDirty_around hord hmem hall),
    fun s hout => ?_, fun s w n hpin hr hbusy => ?_, fun s off hpin hr => ?_, fun s w hcan => ?_,
    fun s carried l n => globalStage_postFlags l carried n s,
    fun s carried c n => channelStage_postFlags c carried n s⟩
  · refine congrArg Host.Outcome.next (event_of_none (if_neg ?_))
    rw [hout]
    exact fun h => Bool.false_ne_true h.2.2
  · rw [exec_mirrorWriteEnd_of_inFlight hpin hr hbusy]
    refine ⟨fun hin => ?_, fun hout hc => ?_, fun hout hc => ?_⟩
    · rw [mirrorCompleted_of_inService (s := s.setBusy none) hin]
      rfl
    · rw [mirrorCompleted_of_nothing (s := s.setBusy none) hout hc]
      rfl
    · rw [mirrorCompleted_of_carried (s := s.setBusy none) hout hc]
      rfl
  · refine next_event_of_some hpin ?_
    simp only [mirrorWriteEnd, hr]
    rfl
  · exact ⟨wordRead_wordWrite_same hcan.1, fun x hx => cellRead_wordWrite_outside hx⟩

/-- Settles O41. -/
theorem flagsAndLines : Obligations.FlagsAndLines :=
  ⟨fun _ _ _ => ⟨fun h => if_pos h, fun h => if_neg h⟩, fun _ _ _ => ⟨fun h => if_pos h, fun h => if_neg h⟩,
    fun _ _ => line_iff⟩

/-- Settles O42: by the command state at the handover, and the tag of the write that ends. -/
theorem commandHandover : Obligations.CommandHandover := by
  refine ⟨fun s p w => ⟨fun h hl => acceptCommand_loading h hl, fun h hl => acceptCommand_idle h hl, fun h => ?_⟩,
    fun s p a op r off htag => ⟨fun hoff => ?_, fun hoff => endPortOp_bcb_word htag hoff⟩,
    fun s p a op off addr v h hw hs htag haddrs hdata => ?_⟩
  · rw [acceptCommand_refused h, commandCode_eq]
  · subst hoff
    exact endPortOp_bcb_command htag
  · have hrun : portRun p op none (s.setBusy none) = (⟨[], 1, none⟩, storeWord op.bank addr v (s.setBusy none)) := by
      rw [portRun_write hw hs, writeWords_none, haddrs, hdata]
      rfl
    refine ⟨fun hoff => ?_, fun hoff => ?_⟩
    · subst hoff
      exact exec_portOperationEnd_of_running h hrun (endPortOp_bcb_command htag)
    · exact exec_portOperationEnd_of_running h hrun (endPortOp_bcb_word htag hoff)

/-- Settles O43: each word by the step that takes it. -/
theorem wordHandovers : Obligations.WordHandovers := by
  refine ⟨fun s p a off v e hpin hphase => ⟨?_, ?_, ?_, ?_⟩, fun s p a k v e hpin hphase => ?_⟩
  · rintro rfl
    exact congrArg Host.Outcome.next (event_takeHandover hpin hphase rfl rfl)
  · rintro rfl
    exact congrArg Host.Outcome.next (event_takeHandover hpin hphase rfl rfl)
  · rintro rfl
    exact congrArg Host.Outcome.next (event_takeHandover hpin hphase rfl rfl)
  · rintro rfl
    exact congrArg Host.Outcome.next (event_takeHandover hpin hphase rfl rfl)
  · exact congrArg Host.Outcome.next
      (event_takeHandover hpin hphase (stagingOffset_own p k) (writeStaging_own p k v s))

/-- Settles O44: an ack word clears the flags of the bits that pass its test, and a cleared flag leaves the write in
flight. -/
theorem ackHandovers : Obligations.AckHandovers := by
  refine ⟨fun s p a off v e hpin hphase => ⟨?_, ?_, ?_, ?_⟩, fun s l v n => ?_, fun s v c ch n hv hch => ?_,
    fun s v c hv hch => ackChannel_of_unconfigured hv hch, fun s v hv => ackChannel_of_high hv, fun s l v => ?_,
    fun s v => ?_, fun s w hr => ?_⟩
  · rintro rfl
    exact congrArg Host.Outcome.next (event_takeHandover hpin hphase rfl rfl)
  · rintro rfl
    exact congrArg Host.Outcome.next (event_takeHandover hpin hphase rfl rfl)
  · rintro rfl
    exact congrArg Host.Outcome.next (event_takeHandover hpin hphase rfl rfl)
  · rintro rfl
    exact congrArg Host.Outcome.next (event_takeHandover hpin hphase rfl (writeCaptureAck_eq 13 v s))
  · rw [ackGlobal_eq, globalStage_foldl_clearGlobal]
    exact ite_of_iff ((and_iff_right rfl).trans mem_globalAcked) rfl rfl
  · rw [ackChannel_of_configured hv hch, channelStage_foldl_clear]
    exact ite_of_iff ((and_iff_right rfl).trans (mem_channelAcked hch)) rfl rfl
  · have hrequest := request_foldl_clearGlobal l (globalBits.filter (globalAcked v s)) s
    rw [← ackGlobal_eq] at hrequest
    refine ⟨?_, fun n => ?_, fun hnone => ?_, fun w hw => ⟨fun hoff => ?_, fun hoff => ?_⟩⟩
    · obtain ⟨g, q, h⟩ := ackGlobal_touches l v s
      rw [h]
    · rw [ackGlobal_eq, globalStage_foldl_clearGlobal]
      exact if_neg fun h => otherPort_ne l h.1
    · rw [hrequest]
      exact droppedFrom_other (fun w hw => absurd hw (hnone w)) _
    · rw [hrequest, hw]
      exact droppedFrom_other (fun w' h => by cases h; exact hoff) _
    · rw [hw, droppedFrom_own _ _ hoff] at hrequest
      refine ⟨_, hrequest, fun n => ?_⟩
      rw [mem_kept, mem_globalAcked]
  · refine ⟨?_, fun d n hd => ?_, fun hnone => ?_, fun w c ch hw hv hch => ?_⟩
    · obtain ⟨g, q, h⟩ := ackChannel_touches v s
      rw [h]
    · rcases ackChannel_cases v s with h | ⟨c, ch, hv, hch⟩
      · rw [h]
      · rw [ackChannel_of_configured hv hch, channelStage_foldl_clear]
        refine if_neg fun h => hd ?_
        rw [hv, h.1]
    · rcases ackChannel_cases v s with h | ⟨c, ch, hv, hch⟩
      · rw [h]
      · rw [ackChannel_of_configured hv hch, request_foldl_clearChannelFlag]
        exact droppedFrom_other (fun w hw => absurd hw (hnone w)) _
    · have hrequest := request_foldl_clearChannelFlag c (channelBits.filter (channelAcked c v s)) s
      rw [← ackChannel_of_configured hv hch, hw] at hrequest
      refine ⟨fun hoff => ?_, fun hoff => ?_⟩
      · rw [hrequest]
        exact droppedFrom_other (fun w' h => by cases h; exact hoff) _
      · rw [droppedFrom_own _ _ hoff] at hrequest
        refine ⟨_, hrequest, fun n => ?_⟩
        rw [mem_kept, mem_channelAcked hch]
  · refine ⟨fun l f hoff => ?_, fun c f hoff => ?_⟩
    · have hcleared : (clearGlobal l f.bit s).globalStage l f.bit = .clear := by
        rw [globalStage_clearGlobal]
        exact if_pos ⟨rfl, rfl⟩
      refine ⟨w.carried.filter (fun n => n != f.bit.val), ?_, ?_⟩
      · rw [request_clearGlobal, hr]
        exact if_pos hoff
      · rw [hoff, globalStage_postFlags, globalStage_raiseGlobal hcleared]
        simp [postedStage]
    · have hcleared : (clearChannelFlag c f.bit s).channelStage c f.bit = .clear := by
        rw [channelStage_clearChannelFlag]
        exact if_pos ⟨rfl, rfl⟩
      refine ⟨w.carried.filter (fun n => n != f.bit.val), ?_, ?_⟩
      · rw [request_clearChannelFlag, hr]
        exact if_pos hoff
      · rw [hoff, channelStage_postFlags, channelStage_raiseChannel hcleared]
        simp [postedStage]

end Sys2Proof.Proofs
end

section
/-! PROOF. The scrubber: its walk over the eligible banks, its phases, and its two commands. -/

namespace Sys2Proof.Machine

open Sys2Proof

theorem startTimer_of_ne {n : Nat} (h : n ≠ 0) : startTimer n = .running n := if_neg h

theorem startTimer_interval {x : BitVec 16} (h : x ≠ 0) : startTimer x.toNat = .running x.toNat :=
  startTimer_of_ne fun e => h (BitVec.eq_of_toNat_eq e)

/-! ## Eligible banks -/

theorem smallest_eq_none_iff : ∀ {l : List Nat}, smallest l = none ↔ l = []
  | [] => by simp [smallest]
  | x :: xs => by
    unfold smallest
    cases smallest xs <;> simp

/-- The smallest of a list is in it and below all of it. -/
theorem smallest_eq_some_iff : ∀ {l : List Nat} {a : Nat}, smallest l = some a ↔ a ∈ l ∧ ∀ x ∈ l, a ≤ x
  | [], a => by simp [smallest]
  | x :: xs, a => by
    unfold smallest
    cases hs : smallest xs with
    | none =>
      rw [smallest_eq_none_iff.1 hs]
      simp only [Option.some.injEq, List.mem_singleton, forall_eq]
      exact ⟨fun h => ⟨h.symm, Nat.le_of_eq h.symm⟩, fun h => h.1.symm⟩
    | some y =>
      obtain ⟨hy, hmin⟩ := smallest_eq_some_iff.1 hs
      simp only [Option.some.injEq, List.mem_cons, forall_eq_or_imp]
      split
      · rename_i hlt
        constructor
        · rintro rfl
          exact ⟨.inr hy, Nat.le_of_lt hlt, hmin⟩
        · rintro ⟨hmem, hx, hall⟩
          rcases hmem with rfl | hmem
          · exact absurd (hall y hy) (by omega)
          · exact Nat.le_antisymm (hmin a hmem) (hall y hy)
      · rename_i hge
        constructor
        · rintro rfl
          exact ⟨.inl rfl, Nat.le_refl _, fun z hz => Nat.le_trans (Nat.not_lt.1 hge) (hmin z hz)⟩
        · rintro ⟨hmem, hx, hall⟩
          rcases hmem with rfl | hmem
          · rfl
          · have := hmin a hmem
            omega

theorem eligible_iff {s : State} {b : BankId} :
    s.eligible b = true ↔
      ∃ cfg, (s.bank b).config = some cfg ∧ cfg.checkCode = true ∧ (s.bank b).service = .inService := by
  unfold State.eligible State.isProtected State.inService
  cases (s.bank b).config <;> simp

theorem lastWord_iff {x : Bank} {addr : Nat} :
    x.lastWord addr = true ↔ ∃ cfg, x.config = some cfg ∧ addr + 4 = cfg.base + cfg.size := by
  unfold Bank.lastWord
  cases x.config <;> simp

/-- The bases the walk looks at from an address up. -/
theorem mem_eligibleBases {s : State} {lo x : Nat} :
    x ∈ ((bankIds.filter s.eligible).map s.bankBase).filter (fun x => decide (lo ≤ x)) ↔
      lo ≤ x ∧ ∃ d, s.eligible d = true ∧ s.bankBase d = x := by
  simp only [List.mem_filter, List.mem_map, decide_eq_true_eq]
  constructor
  · rintro ⟨⟨d, ⟨_, hd⟩, hx⟩, hle⟩
    exact ⟨hle, d, hd, hx⟩
  · rintro ⟨hle, d, hd, hx⟩
    exact ⟨⟨d, ⟨mem_bankIds d, hd⟩, hx⟩, hle⟩

theorem eligibleFrom_eq_none_iff {s : State} {lo : Nat} :
    s.eligibleFrom lo = none ↔ ∀ d, s.eligible d = true → s.bankBase d < lo := by
  rw [State.eligibleFrom, smallest_eq_none_iff, List.eq_nil_iff_forall_not_mem]
  constructor
  · intro h d hd
    exact Nat.not_le.1 fun hge => h _ (mem_eligibleBases.2 ⟨hge, d, hd, rfl⟩)
  · intro h x hx
    obtain ⟨hle, d, hd, rfl⟩ := mem_eligibleBases.1 hx
    exact absurd (h d hd) (Nat.not_lt.2 hle)

theorem eligibleFrom_eq_some_iff {s : State} {lo a : Nat} :
    s.eligibleFrom lo = some a ↔
      lo ≤ a ∧ (∃ d, s.eligible d = true ∧ s.bankBase d = a)
        ∧ ∀ d, s.eligible d = true → lo ≤ s.bankBase d → a ≤ s.bankBase d := by
  rw [State.eligibleFrom, smallest_eq_some_iff, mem_eligibleBases, and_assoc]
  refine and_congr_right fun _ => and_congr_right fun _ => ?_
  constructor
  · exact fun h d hd hle => h _ (mem_eligibleBases.2 ⟨hle, d, hd, rfl⟩)
  · intro h x hx
    obtain ⟨hle, d, hd, rfl⟩ := mem_eligibleBases.1 hx
    exact h d hd hle

/-! ## Moving the position -/

theorem scrubOnward_of_some {s : State} {lo a : Nat} (h : s.eligibleFrom lo = some a) :
    scrubOnward lo s = s.setScrub { s.scrub with position := some a } := by
  simp only [scrubOnward, h]

theorem scrubOnward_of_wrap {s : State} {lo a : Nat} (h : s.eligibleFrom lo = none) (h0 : s.eligibleFrom 0 = some a) :
    scrubOnward lo s
      = raiseBoth .scrubPass (s.setScrub { s.scrub with position := some a, passes := satInc s.scrub.passes }) := by
  simp only [scrubOnward, h, scrubWrap, h0]

theorem scrubOnward_of_none {s : State} {lo : Nat} (h : s.eligibleFrom lo = none) (h0 : s.eligibleFrom 0 = none) :
    scrubOnward lo s = s.setScrub { s.scrub with position := none } := by
  simp only [scrubOnward, h, scrubWrap, h0]

theorem scrubAdvance_other {s : State} {b : BankId} {addr : Nat} (h : s.scrub.position ≠ some addr) :
    scrubAdvance b addr s = s := if_neg h

theorem scrubAdvance_word {s : State} {b : BankId} {addr : Nat} (h : s.scrub.position = some addr)
    (hl : (s.bank b).lastWord addr = false) :
    scrubAdvance b addr s = s.setScrub { s.scrub with position := some (addr + 4) } := by
  rw [scrubAdvance, if_pos h, hl]
  rfl

theorem scrubAdvance_last {s : State} {b : BankId} {addr : Nat} (h : s.scrub.position = some addr)
    (hl : (s.bank b).lastWord addr = true) : scrubAdvance b addr s = scrubOnward (addr + 4) s := by
  rw [scrubAdvance, if_pos h, hl]
  rfl

/-! ## Phases -/

theorem scrubResume_other {s : State} (h : s.scrub.state ≠ .running .reading) : scrubResume s = s := if_neg h

theorem scrubResume_stop {s : State} {p : Port} (h : s.scrub.state = .running .reading) (hp : stopWaiting s = some p) :
    scrubResume s = endCommand p .done (s.setScrub { s.scrub with state := .stopped, timer := .stopped }) := by
  rw [scrubResume, if_pos h, hp]

theorem scrubResume_go {s : State} (h : s.scrub.state = .running .reading) (hp : stopWaiting s = none) :
    scrubResume s = s.setScrub (scrubGoOn s.scrub) := by
  rw [scrubResume, if_pos h, hp]

theorem scrubGoOn_noBank {x : Scrubber} (h : x.position = none) :
    scrubGoOn x = { x with state := .running .noBank, timer := .stopped } := by
  rw [scrubGoOn, if_pos (by rw [h]; rfl)]

theorem scrubGoOn_requesting {x : Scrubber} (h : x.position ≠ none) (hi : x.interval = 0) :
    scrubGoOn x = { x with state := .running .requesting, timer := .stopped } := by
  rw [scrubGoOn, if_neg (by rwa [Option.isNone_iff_eq_none]), if_pos hi]

theorem scrubGoOn_pacing {x : Scrubber} (h : x.position ≠ none) (hi : x.interval ≠ 0) :
    scrubGoOn x = { x with state := .running .pacing, timer := .running x.interval.toNat } := by
  rw [scrubGoOn, if_neg (by rwa [Option.isNone_iff_eq_none]), if_neg hi, startTimer_interval hi]

theorem scrubResume_noBank {s : State} (h : s.scrub.state = .running .reading) (hp : stopWaiting s = none)
    (hpos : s.scrub.position = none) :
    scrubResume s = s.setScrub { s.scrub with state := .running .noBank, timer := .stopped } := by
  rw [scrubResume_go h hp, scrubGoOn_noBank hpos]

theorem scrubResume_requesting {s : State} (h : s.scrub.state = .running .reading) (hp : stopWaiting s = none)
    (hpos : s.scrub.position ≠ none) (hi : s.scrub.interval = 0) :
    scrubResume s = s.setScrub { s.scrub with state := .running .requesting, timer := .stopped } := by
  rw [scrubResume_go h hp, scrubGoOn_requesting hpos hi]

theorem scrubResume_pacing {s : State} (h : s.scrub.state = .running .reading) (hp : stopWaiting s = none)
    (hpos : s.scrub.position ≠ none) (hi : s.scrub.interval ≠ 0) :
    scrubResume s = s.setScrub { s.scrub with state := .running .pacing, timer := .running s.scrub.interval.toNat } := by
  rw [scrubResume_go h hp, scrubGoOn_pacing hpos hi]

/-- Where the position goes, the phase follows. -/
theorem scrubAfterMove_moved (x : Scrubber) (next : Option Nat) :
    scrubAfterMove { x with position := next } = scrubMoved x next := by
  cases x with
  | mk state position interval timer passes timedOut =>
    cases state with
    | stopped => rfl
    | running ph => cases ph <;> cases next <;> rfl

/-- A pass counted beside a move. -/
theorem scrubAfterMove_passes (x : Scrubber) (n : BitVec 16) :
    scrubAfterMove { x with passes := n } = { scrubAfterMove x with passes := n } := by
  cases x with
  | mk state position interval timer passes timedOut =>
    cases state with
    | stopped => rfl
    | running ph => cases ph <;> cases position <;> rfl

theorem raiseGlobal_setScrub (l : Port) (f : GlobalFlag) (x : Scrubber) (s : State) :
    raiseGlobal l f (s.setScrub x) = (raiseGlobal l f s).setScrub x := by
  have hstage : (s.setScrub x).globalStage l f.bit = s.globalStage l f.bit := rfl
  unfold raiseGlobal
  rw [hstage]
  split <;> rfl

theorem raiseBoth_setScrub (f : GlobalFlag) (x : Scrubber) (s : State) :
    raiseBoth f (s.setScrub x) = (raiseBoth f s).setScrub x := by
  rw [raiseBoth, raiseGlobal_setScrub, raiseGlobal_setScrub, raiseBoth]

theorem scrub_setScrub (s : State) (x : Scrubber) : (s.setScrub x).scrub = x := rfl

theorem setScrub_setScrub (s : State) (x y : Scrubber) : (s.setScrub x).setScrub y = s.setScrub y := rfl

theorem scrubDeparture_in {s : State} {b : BankId} (h : s.scrubIn b = true) :
    scrubDeparture b s
      = (scrubOnward (s.bankBase b) s).setScrub (scrubAfterMove (scrubOnward (s.bankBase b) s).scrub) :=
  if_pos h

/-! ## The end of a scrub read -/

theorem exec_scrubReadEnd_of_busy {s t : State} {b : BankId} {addr n : Nat} (hop : s.operating)
    (hbusy : s.arbiter.busy = some ⟨.scrub b addr, n⟩)
    (ht : (readAccess .scrub b addr none (s.setBusy none)).2.2 = t) :
    exec .scrubReadEnd s = .next (settle s (scrubResume (scrubAdvance b addr t))) := by
  have hdev : t.device ≠ .loading := by
    rw [← ht, (readAccess_touches .scrub b addr none (s.setBusy none)).device]
    exact hop.2
  refine next_event_of_some hop.1 ?_
  simp only [scrubReadEnd, hbusy, ht, scrubReadEnded, if_neg hdev]

/-- The read that timed out, taken. -/
theorem exec_scrubReadEnd_timedOut {s : State} {b : BankId} {addr : Nat} (hop : s.operating)
    (hbusy : s.arbiter.busy = none) (ht : s.scrub.timedOut = some addr) (hb : s.bankOf addr = some b) :
    exec .scrubReadEnd s
      = .next (settle s (scrubResume (scrubAdvance b addr (s.setScrub { s.scrub with timedOut := none })))) := by
  have hdev : (s.setScrub { s.scrub with timedOut := none }).device ≠ .loading := hop.2
  refine next_event_of_some hop.1 ?_
  simp only [scrubReadEnd, hbusy, ht, hb, scrubReadEnded, if_neg hdev]

theorem scrubReturn_of_position {s : State} {b : BankId} (h : s.scrub.position ≠ none) : scrubReturn b s = s :=
  if_neg (by rwa [Option.isNone_iff_eq_none])

/-- A scrubber without a position takes the bank's base. -/
theorem scrubReturn_of_none {s : State} {b : BankId} (h : s.scrub.position = none) :
    scrubReturn b s = s.setScrub
      (if s.scrub.state = .running .noBank then scrubGoOn { s.scrub with position := some (s.bankBase b) }
       else { s.scrub with position := some (s.bankBase b) }) :=
  if_pos (by rw [h]; rfl)

/-! ## Commands -/

theorem exec_scrubStart_of_takes {s t : State} {p : Port} {w : Word} {o : CommandOutcome} (ht : s.takes p w)
    (hcode : commandCode w = 0x0B) (ho : scrubStart p w (startCommand p w s) = (o, t)) :
    exec .scrubStart s = .next (settle s (endCommand p o t)) :=
  congrArg Host.Outcome.next (event_runCommand_of_takes ht (by rw [hcode]; rfl) ho)

theorem exec_scrubStop_of_takes {s t : State} {p : Port} {w : Word} (ht : s.takes p w)
    (hstop : scrubStop s = some t) : exec .scrubStop s = .next (settle s t) :=
  next_event_of_some ht.1.1 hstop

theorem takeCommand_scrubStop {s : State} {p : Port} {w : Word} (ht : s.takes p w) (hcode : commandCode w = 0x0C) :
    takeCommand (codeIs 0x0C) s = some (p, w) := takeCommand_of_takes ht (by rw [hcode]; rfl)

end Sys2Proof.Machine

namespace Sys2Proof.Proofs

open Sys2Proof Sys2Proof.Machine

/-- Settles O45: the advance, the resumption, the departure and the return each by their own equations. -/
theorem scrubber : Obligations.Scrubber := by
  refine ⟨?expiry, ?word, ?timedOut, ?classes, ?advance, ?resume, ?walk, ?departure, ?comeback, fun s b f => rfl, ?commands⟩
  case expiry =>
    intro s hpin hs ht
    refine next_event_of_some hpin ?_
    rw [scrubExpiry, if_pos ⟨hs, ht⟩]
    rfl
  case word =>
    intro s b addr n hop hbusy hp hclean hs hpos hl
    have hread : (readAccess .scrub b addr none (s.setBusy none)).2.2 = s.setBusy none := by
      rw [readAccess_clean (s := s.setBusy none) fun _ => hclean]
    have hadv : scrubAdvance b addr (s.setBusy none)
        = (s.setBusy none).setScrub { s.scrub with position := some (addr + 4) } := scrubAdvance_word hpos hl
    rw [exec_scrubReadEnd_of_busy hop hbusy hread, hadv]
    refine ⟨fun hstop hi => ?_, fun hstop hi => ?_, fun p hstop => ?_⟩
    · exact congrArg (fun t => Host.Outcome.next (settle s t)) (scrubResume_pacing hs hstop nofun hi)
    · exact congrArg (fun t => Host.Outcome.next (settle s t)) (scrubResume_requesting hs hstop nofun hi)
    · exact congrArg (fun t => Host.Outcome.next (settle s t)) (scrubResume_stop hs hstop)
  case timedOut =>
    intro s b addr hop hbusy ht hb hs hpos hl hstop hi
    have hadv : scrubAdvance b addr (s.setScrub { s.scrub with timedOut := none })
        = s.setScrub { s.scrub with timedOut := none, position := some (addr + 4) } := scrubAdvance_word hpos hl
    rw [exec_scrubReadEnd_timedOut hop hbusy ht hb, hadv]
    exact congrArg (fun t => Host.Outcome.next (settle s t)) (scrubResume_pacing hs hstop nofun hi)
  case classes =>
    intro s b addr n hop hbusy
    refine ⟨fun h => ?_, fun v hp hc => ?_, fun hp hc => ?_⟩
    · refine exec_scrubReadEnd_of_busy hop hbusy ?_
      cases hp : s.isProtected b with
      | false => rw [readAccess_clean (s := s.setBusy none) fun e => absurd e (by change ¬ s.isProtected b = true; rw [hp]; decide)]
      | true =>
        rcases h with h | h | h
        · rw [hp] at h
          cases h
        · rw [readAccess_clean (s := s.setBusy none) fun _ => h]
        · rw [readAccess_poisoned (s := s.setBusy none) hp h]
          rfl
    · exact exec_scrubReadEnd_of_busy hop hbusy (by rw [readAccess_corrected (s := s.setBusy none) hp hc])
    · refine exec_scrubReadEnd_of_busy hop hbusy ?_
      rw [readAccess_uncorrectable (s := s.setBusy none) hp hc]
      rfl
  case advance =>
    refine fun s b addr => ⟨fun h => scrubAdvance_other h, fun h => ⟨fun hl => scrubAdvance_word h hl, fun hl => ?_⟩⟩
    rw [scrubAdvance_last h hl]
    exact ⟨fun a ha => scrubOnward_of_some ha, fun a hnone ha => scrubOnward_of_wrap hnone ha,
      fun hnone h0 => scrubOnward_of_none hnone h0⟩
  case resume =>
    exact fun s => ⟨fun h => scrubResume_other h, fun h => ⟨fun p hp => scrubResume_stop h hp,
      fun hp hpos => scrubResume_noBank h hp hpos, fun hp hpos hi => scrubResume_requesting h hp hpos hi,
      fun hp hpos hi => scrubResume_pacing h hp hpos hi⟩⟩
  case walk =>
    refine fun s b addr => ⟨lastWord_iff, eligible_iff, fun cfg hcfg => ?_, eligibleFrom_eq_none_iff,
      fun a => eligibleFrom_eq_some_iff⟩
    simp only [State.bankBase, hcfg]
  case departure =>
    refine fun s b => ⟨fun h => if_neg (by rw [h]; decide), fun h => ⟨fun a ha => ?_, fun a hnone ha => ?_,
      fun hnone h0 => ?_⟩⟩
    · rw [scrubDeparture_in h, scrubOnward_of_some ha, ← scrubAfterMove_moved]
      rfl
    · rw [scrubDeparture_in h, scrubOnward_of_wrap hnone ha, raiseBoth_setScrub]
      have hmoved := scrubAfterMove_passes { s.scrub with position := some a } (satInc s.scrub.passes)
      rw [scrubAfterMove_moved] at hmoved
      rw [scrub_setScrub, setScrub_setScrub, hmoved]
      exact (raiseBoth_setScrub ..).symm
    · rw [scrubDeparture_in h, scrubOnward_of_none hnone h0, ← scrubAfterMove_moved]
      rfl
  case comeback =>
    refine fun s b => ⟨fun h => scrubReturn_of_position h, fun h => ?_⟩
    rw [scrubReturn_of_none h]
    refine ⟨fun hs => ?_, fun hs hi => ?_, fun hs hi => ?_⟩
    · rw [if_neg hs]
      rfl
    · rw [if_pos hs]
      exact congrArg s.setScrub (scrubGoOn_pacing nofun hi)
    · rw [if_pos hs]
      exact congrArg s.setScrub (scrubGoOn_requesting nofun hi)
  case commands =>
    refine fun s p w ht => ⟨fun hcode => ⟨fun hs => ?_, fun hs => ?_⟩, fun hcode => ⟨fun hs => ?_, fun hs => ?_,
      fun hs hr => ?_⟩⟩
    · refine exec_scrubStart_of_takes ht hcode ((if_pos hs).trans ?_)
      have hphase : (if s.scrub.position.isNone = true then ScrubPhase.noBank else .requesting)
          = if s.scrub.position = none then .noBank else .requesting := ite_of_iff Option.isNone_iff_eq_none rfl rfl
      rw [← hphase]
      rfl
    · exact exec_scrubStart_of_takes ht hcode (if_neg hs)
    · refine exec_scrubStop_of_takes ht ?_
      have hs' : (startCommand p w s).scrub.state = .stopped := hs
      simp only [scrubStop, takeCommand_scrubStop ht hcode, hs']
      rfl
    · refine exec_scrubStop_of_takes ht ?_
      have hs' : (startCommand p w s).scrub.state = .running .reading := hs
      simp only [scrubStop, takeCommand_scrubStop ht hcode, hs']
      rfl
    · refine exec_scrubStop_of_takes ht ?_
      simp only [scrubStop, takeCommand_scrubStop ht hcode]
      split
      · rename_i h
        exact absurd h hs
      · rename_i h
        exact absurd h hr
      · rfl

end Sys2Proof.Proofs
end


section
/-! PROOF. The command executor (R166): the order in which it takes commands, the step of each code, and the ends that
consult no owner. -/

namespace Sys2Proof.Machine

open Sys2Proof

/-! ## Taking a command -/

theorem takeCommand_of_other {s : State} {p : Port} {w : Word} {n : Nat} (ht : s.takes p w) (hn : commandCode w ≠ n) :
    takeCommand (codeIs n) s = none := by
  obtain ⟨⟨_, hrun⟩, hidle, hold⟩ := ht
  have hcode : codeIs n (commandCode w) = false := beq_eq_false_iff_ne.2 hn
  simp [takeCommand, hrun, hidle, hold, hcode]

theorem takeCommand_of_busy {s : State} (codes : Nat → Bool) (h : s.device = .loading ∨ executorBusy s = true) :
    takeCommand codes s = none := by
  rcases h with h | h <;> simp [takeCommand, h]

theorem runCommand_of_none {s : State} {codes : Nat → Bool} (owner : Owner) (h : takeCommand codes s = none) :
    runCommand codes owner s = none := by
  simp only [runCommand, h]

theorem oldestPending_of_both {s : State} {w v : Word} {n m : Nat} (h0 : s.commands.first.state = .pending w n)
    (h1 : s.commands.second.state = .pending v m) :
    oldestPending s = if n ≤ m then some (.port0, w) else some (.port1, v) := by
  simp only [oldestPending, h0, h1]

/-- The step of a command whose owner is consulted under one code. -/
theorem exec_command_of_takes {i : Instr} {n : Nat} {owner : Owner} {s t : State} {p : Port} {w : Word}
    {o : CommandOutcome} (hi : exec i s = .next (event s (runCommand (codeIs n) owner))) (ht : s.takes p w)
    (hcode : commandCode w = n) (ho : owner p w (startCommand p w s) = (o, t)) :
    exec i s = .next (settle s (endCommand p o t)) := by
  have hlisted : codeIs n (commandCode w) = true := beq_iff_eq.2 hcode
  rw [hi, event_runCommand_of_takes ht hlisted ho]

/-! ## The steps of the commands -/

theorem exec_channelCommand : ∀ x ∈ channelCommands, ∃ f, ∀ s,
    exec x.2 s = .next (event s (runCommand (codeIs x.1) (withChannel f))) := by
  simp only [channelCommands, List.forall_mem_cons]
  exact ⟨⟨_, fun _ => rfl⟩, ⟨_, fun _ => rfl⟩, ⟨_, fun _ => rfl⟩, ⟨_, fun _ => rfl⟩, ⟨_, fun _ => rfl⟩,
    ⟨_, fun _ => rfl⟩, ⟨_, fun _ => rfl⟩, nofun⟩

theorem exec_bankCommand : ∀ x ∈ bankCommands, ∃ f, ∀ s,
    exec x.2 s = .next (event s (runCommand (codeIs x.1) (withBank f))) := by
  simp only [bankCommands, List.forall_mem_cons]
  exact ⟨⟨_, fun _ => rfl⟩, ⟨_, fun _ => rfl⟩, ⟨_, fun _ => rfl⟩, nofun⟩

theorem withChannel_of_large {f : Port → Word → ChanId → State → CommandOutcome × State} (p : Port) {w : Word}
    (s : State) (h : 16 ≤ commandArgA w) : withChannel f p w s = (.badArgument, s) :=
  dif_neg (Nat.not_lt.2 h)

theorem withBank_of_large {f : BankId → State → CommandOutcome × State} (p : Port) {w : Word} (s : State)
    (h : 4 ≤ commandArgA w) : withBank f p w s = (.badArgument, s) :=
  dif_neg (Nat.not_lt.2 h)

theorem withBank_of_argA {f : BankId → State → CommandOutcome × State} (p : Port) {w : Word} {b : BankId} (s : State)
    (ha : commandArgA w = b.val) : withBank f p w s = f b s := by
  simp [withBank, ha]

/-- Every command's step does nothing when the executor does not take a command of its code. -/
theorem exec_command_of_not_taken : ∀ x ∈ executorCommands, ∀ s, takeCommand (codeIs x.1) s = none →
    exec x.2 s = .next s := by
  intro x hx s htake
  have hrun : ∀ owner, Host.Outcome.next (event s (runCommand (codeIs x.1) owner)) = .next s := fun owner =>
    next_event_of_none (runCommand_of_none owner htake)
  simp only [executorCommands, List.mem_append] at hx
  rcases hx with (hx | hx) | hx
  · obtain ⟨f, hf⟩ := exec_channelCommand x hx
    exact (hf s).trans (hrun _)
  · obtain ⟨f, hf⟩ := exec_bankCommand x hx
    exact (hf s).trans (hrun _)
  · simp only [List.mem_cons, List.not_mem_nil, or_false] at hx
    rcases hx with rfl | rfl | rfl | rfl | rfl
    · exact hrun scrubStart
    · exact next_event_of_none (by simp only [scrubStop, htake])
    · exact hrun countersClear
    · exact hrun timeZero
    · exact next_event_of_none (by simp only [reloadCommand, htake])

end Sys2Proof.Machine

namespace Sys2Proof.Proofs

open Sys2Proof Sys2Proof.Machine

/-- Settles O48: whether a command is taken is settled by `takeCommand`; a bad argument or an unlisted code ends in the
state its start left. -/
theorem commandExecution : Obligations.CommandExecution := by
  refine ⟨fun s p o => rfl, fun s w v n m h0 h1 => ⟨fun h => ?_, fun h => ?_⟩, fun s p w ht =>
    ⟨fun hcode => ?_, fun x hx hcode ha => ?_, fun x hx hcode ha => ?_, fun x hx hcode =>
      exec_command_of_not_taken x hx s (takeCommand_of_other ht hcode)⟩, fun s h =>
    ⟨next_event_of_none (runCommand_of_none _ (takeCommand_of_busy _ h)), fun x hx =>
      exec_command_of_not_taken x hx s (takeCommand_of_busy _ h)⟩⟩
  · rw [oldestPending_of_both h0 h1, if_pos (Nat.le_of_lt h)]
  · rw [oldestPending_of_both h0 h1, if_neg (Nat.not_le.2 h)]
  · have hlisted : codeUnlisted (commandCode w) = true := by simpa [codeUnlisted] using hcode
    exact congrArg Host.Outcome.next (event_runCommand_of_takes ht hlisted rfl)
  · obtain ⟨f, hf⟩ := exec_channelCommand x hx
    exact exec_command_of_takes (hf s) ht hcode (withChannel_of_large p _ ha)
  · obtain ⟨f, hf⟩ := exec_bankCommand x hx
    exact exec_command_of_takes (hf s) ht hcode (withBank_of_large p _ ha)

end Sys2Proof.Proofs
end


section
/-! PROOF. CHANNEL_ENABLE, CHANNEL_DISABLE and CHANNEL_RESET (R41 to R43): the records they leave, and the outcome by
the state of the entry. -/

namespace Sys2Proof.Machine

open Sys2Proof

/-! ## The records -/

theorem Channel.disabled_eq (ch : Channel) : ch.disabled = offRecord ch := rfl

theorem Channel.enabled_eq (ch : Channel) (up : Bool) : ch.enabled up = liveRecord ch up := rfl

theorem slots_offRecord_offRecord (ch : Channel) : (offRecord (offRecord ch)).slots = (offRecord ch).slots := by
  refine Vector.ext fun i hi => ?_
  simp only [offRecord, Vector.getElem_map, freedRecord]

/-- A record disabled twice, its counters cleared in between, is enabled as one disabled once. -/
theorem resetRecord_eq (ch : Channel) (up : Bool) :
    ({ ch.disabled.countsCleared.enabled up with lastCommit := none } : Channel)
      = { liveRecord ch up with dropped := 0, lost := 0, blocked := 0, empty := 0, lastCommit := none } := by
  have hslots : (ch.disabled.countsCleared.enabled up).slots = (offRecord ch).slots := slots_offRecord_offRecord ch
  exact congrArg (fun v => ({ liveRecord ch up with
    slots := v, dropped := 0, lost := 0, blocked := 0, empty := 0, lastCommit := none } : Channel)) hslots

/-! ## The bank of a slot area -/

theorem slotBankUp_of_banks {s t : State} (h : t.banks = s.banks) (cfg : ChannelConfig) :
    t.slotBankUp cfg = s.slotBankUp cfg := by
  have hself : t.slotBankUp cfg = ({ s with banks := t.banks } : State).slotBankUp cfg := rfl
  rw [hself, h]

theorem slotBankUp_eq_true_iff {s : State} {cfg : ChannelConfig} :
    s.slotBankUp cfg = true ↔ ∃ b, s.bankOf cfg.slotBase = some b ∧ (s.bank b).service = .inService := by
  simp only [State.slotBankUp]
  split
  · rename_i b hb
    simp only [hb, Option.some.injEq, exists_eq_left', State.inService, beq_iff_eq]
  · rename_i hb
    simp [hb]

theorem banks_abortAtEngine (c : ChanId) (copy : ChannelCopy) (s : State) :
    (abortAtEngine c copy s).banks = s.banks := by
  cases copy <;> rfl

theorem banks_answerWaiting (p : Port) (c : ChanId) (f : FaultCode) (s : State) :
    (answerWaiting p c f s).banks = s.banks := by
  unfold answerWaiting
  split
  · split
    · rename_i a _ _ _
      obtain ⟨x, g, h⟩ := giveAnswer_touches p a ⟨[], some f⟩ a.addr a.locked s
      rw [answerFault, h]
    · rfl
  · rfl

theorem banks_disableAt (c : ChanId) (ch : Channel) (s : State) : (disableAt c ch s).banks = s.banks := by
  rw [disableAt, banks_answerWaiting, banks_abortAtEngine, banks_setChan]

theorem resetAt_disableAt (c : ChanId) (ch : Channel) (s : State) :
    resetAt c ch (disableAt c ch s) = clearChannelFlags c ((disableAt c ch s).setChan c
      (some { liveRecord ch (s.slotBankUp ch.config) with
        dropped := 0, lost := 0, blocked := 0, empty := 0, lastCommit := none })) := by
  rw [resetAt, slotBankUp_of_banks (banks_disableAt c ch s), resetRecord_eq]

/-! ## The owners -/

theorem channelEnable_of_off {s : State} {c : ChanId} {ch : Channel} (p : Port) (w : Word) (hch : s.chan c = some ch)
    (hoff : ch.state = .off) :
    channelEnable p w c s = (.done, s.setChan c (some (liveRecord ch (s.slotBankUp ch.config)))) := by
  simp only [channelEnable, hch, if_pos hoff, Channel.enabled_eq]

theorem channelEnable_of_not_off {s : State} {c : ChanId} (p : Port) (w : Word)
    (h : s.chan c = none ∨ ∃ ch, s.chan c = some ch ∧ ch.state ≠ .off) : channelEnable p w c s = (.wrongState, s) := by
  rcases h with hnone | ⟨ch, hch, hon⟩
  · simp only [channelEnable, hnone]
  · simp only [channelEnable, hch, if_neg hon]

theorem channelDisable_of_on {s : State} {c : ChanId} {ch : Channel} (p : Port) (w : Word) (hch : s.chan c = some ch)
    (hon : ch.state ≠ .off) : channelDisable p w c s = (.done, disableAt c ch s) := by
  simp only [channelDisable, hch, if_neg hon]

theorem channelDisable_of_off {s : State} {c : ChanId} (p : Port) (w : Word)
    (h : s.chan c = none ∨ ∃ ch, s.chan c = some ch ∧ ch.state = .off) : channelDisable p w c s = (.wrongState, s) := by
  rcases h with hnone | ⟨ch, hch, hoff⟩
  · simp only [channelDisable, hnone]
  · simp only [channelDisable, hch, if_pos hoff]

theorem channelReset_of_on {s : State} {c : ChanId} {ch : Channel} (p : Port) (w : Word) (hch : s.chan c = some ch)
    (hon : ch.state ≠ .off) : channelReset p w c s = (.done, resetAt c ch (disableAt c ch s)) := by
  simp only [channelReset, hch, if_neg hon]

theorem channelReset_of_off {s : State} {c : ChanId} (p : Port) (w : Word)
    (h : s.chan c = none ∨ ∃ ch, s.chan c = some ch ∧ ch.state = .off) : channelReset p w c s = (.wrongState, s) := by
  rcases h with hnone | ⟨ch, hch, hoff⟩
  · simp only [channelReset, hnone]
  · simp only [channelReset, hch, if_pos hoff]

/-! ## The commands -/

/-- The step of a command of a channel. -/
theorem exec_channelCommand_of_takes {i : Instr} {n : Nat} {f : Port → Word → ChanId → State → CommandOutcome × State}
    {s t : State} {p : Port} {w : Word} {c : ChanId} {o : CommandOutcome}
    (hi : exec i s = .next (event s (runCommand (codeIs n) (withChannel f)))) (ht : s.takes p w)
    (ha : commandArgA w = c.val) (hcode : commandCode w = n) (ho : f p w c (startCommand p w s) = (o, t)) :
    exec i s = .next (settle s (endCommand p o t)) :=
  exec_command_of_takes hi ht hcode ((withChannel_of_argA _ ha).trans ho)

theorem disableAt_of_waiting {s : State} {c : ChanId} {ch : Channel} {a : Access}
    (hphase : (s.port ch.config.writer).phase = .waitingCommit a c) :
    disableAt c ch s = answerFault ch.config.writer a .channelOff
      (abortAtEngine c ch.copy (s.setChan c (some (offRecord ch)))) := by
  refine answerWaiting_of_waiting ?_
  cases ch.copy <;> exact hphase

end Sys2Proof.Machine

namespace Sys2Proof.Proofs

open Sys2Proof Sys2Proof.Machine

/-- Settles O49: each command by its owner's answer for the entry; the enable of a reset meets the banks as they stood
before the disable. -/
theorem enableDisableReset : Obligations.EnableDisableReset := by
  refine ⟨fun s p w c ht ha => ⟨fun ch hcode hch hoff => ?_, fun hcode h => ?_, fun ch hcode hch hon => ?_,
    fun hcode h => ?_, fun ch hcode hch hon => ?_⟩, fun s c ch a hch hphase => ⟨fun hcopy => ?_, fun n hcopy => ?_⟩⟩
  · exact exec_channelCommand_of_takes rfl ht ha hcode (channelEnable_of_off p w hch hoff)
  · exact exec_channelCommand_of_takes rfl ht ha hcode (channelEnable_of_not_off p w h)
  · exact exec_channelCommand_of_takes rfl ht ha hcode (channelDisable_of_on p w hch hon)
  · rcases hcode with hcode | hcode
    · rw [if_pos hcode]
      exact exec_channelCommand_of_takes rfl ht ha hcode (channelDisable_of_off p w h)
    · rw [if_neg (by rw [hcode]; decide)]
      exact exec_channelCommand_of_takes rfl ht ha hcode (channelReset_of_off p w h)
  · refine ⟨_, rfl, ?_⟩
    exact exec_channelCommand_of_takes rfl ht ha hcode ((channelReset_of_on (s := startCommand p w s) p w hch hon).trans
      (congrArg (Prod.mk CommandOutcome.done) (resetAt_disableAt c ch (startCommand p w s))))
  · rw [disableAt_of_waiting hphase, hcopy]
    rfl
  · rw [disableAt_of_waiting hphase, hcopy]
    rfl

end Sys2Proof.Proofs
end


section
/-! PROOF. CHANNEL_LOAD (R31 to R33, R39): the outcome by the state of the entry and the checks, the entry as loaded,
and what the checks are made against. -/

namespace Sys2Proof.Machine

open Sys2Proof

theorem channelLoad_of_rotating {s : State} {p : Port} {c : ChanId} (w : Word) (h : rotating (s.chan c) = true) :
    channelLoad p w c s = (.wrongState, s) := if_pos h

theorem channelLoad_of_rejected {s : State} {p : Port} {c : ChanId} (w : Word) (h : rotating (s.chan c) = false)
    (hcheck : ((stagingEntry p s).listed && (stagingEntry p s).config.accepted (s.surroundings c)) = false) :
    channelLoad p w c s = (.badArgument, s) := by
  rw [channelLoad, if_neg (by rw [h]; decide)]
  exact if_neg (by rw [hcheck]; decide)

theorem channelLoad_of_accepted {s : State} {p : Port} {c : ChanId} (w : Word) (h : rotating (s.chan c) = false)
    (hcheck : ((stagingEntry p s).listed && (stagingEntry p s).config.accepted (s.surroundings c)) = true) :
    channelLoad p w c s = (.done, clearChannelFlags c (s.setChan c
      (some (Channel.loaded (stagingEntry p s).config (s.slotBankUp (stagingEntry p s).config))))) := by
  rw [channelLoad, if_neg (by rw [h]; decide)]
  exact if_pos hcheck

theorem slot_loaded (cfg : ChannelConfig) (up : Bool) (i : Fin 8) :
    (Channel.loaded cfg up).slot i = ⟨.free, none, none, false, [], false⟩ :=
  vector_get_replicate _ i

/-! ## What the checks are made against -/

theorem mem_bankConfigs {s : State} {cfg : BankConfig} : cfg ∈ s.bankConfigs ↔ ∃ b, (s.bank b).config = some cfg := by
  simp only [State.bankConfigs, List.mem_filterMap, mem_bankIds, true_and]

theorem mem_bankRanges {cfgs : List BankConfig} {r : Nat × Nat} :
    r ∈ bankRanges cfgs ↔ ∃ cfg ∈ cfgs, r = (cfg.base, cfg.size) := by
  simp only [bankRanges, List.mem_map, eq_comm]

theorem mem_otherConfigs {s : State} {c : ChanId} {cfg : ChannelConfig} :
    cfg ∈ s.otherConfigs c ↔ ∃ d ch, d ≠ c ∧ s.chan d = some ch ∧ ch.config = cfg := by
  simp only [State.otherConfigs, List.mem_filterMap, List.mem_filter, mem_chanIds, true_and, bne_iff_ne,
    Option.map_eq_some_iff, exists_and_left]

theorem mem_surroundings_banks {s : State} {c : ChanId} {r : Nat × Nat} :
    r ∈ (s.surroundings c).banks ↔ ∃ b cfg, (s.bank b).config = some cfg ∧ r = (cfg.base, cfg.size) := by
  refine mem_bankRanges.trans ⟨?_, ?_⟩
  · rintro ⟨cfg, hcfg, hr⟩
    obtain ⟨b, hb⟩ := mem_bankConfigs.1 hcfg
    exact ⟨b, cfg, hb, hr⟩
  · rintro ⟨b, cfg, hb, hr⟩
    exact ⟨cfg, mem_bankConfigs.2 ⟨b, hb⟩, hr⟩

end Sys2Proof.Machine

namespace Sys2Proof.Proofs

open Sys2Proof Sys2Proof.Machine

/-- Settles O50: the command's start leaves the staging entry, the table and the banks, so the checks see them as they
stood. -/
theorem loadChannel : Obligations.LoadChannel := by
  refine ⟨fun s p w c ht hcode ha => ⟨fun hrot => ?_, fun hrot hcheck => ?_, fun hrot hcheck => ?_⟩,
    fun s p => ⟨rfl, rfl, rfl, rfl, rfl, rfl⟩,
    fun s c => ⟨rfl, fun r => mem_surroundings_banks, fun cfg => mem_otherConfigs⟩⟩
  · exact exec_channelCommand_of_takes rfl ht ha hcode (channelLoad_of_rotating w hrot)
  · exact exec_channelCommand_of_takes rfl ht ha hcode (channelLoad_of_rejected w hrot hcheck)
  · exact ⟨Channel.loaded (stagingEntry p s).config (s.slotBankUp (stagingEntry p s).config),
      exec_channelCommand_of_takes rfl ht ha hcode (channelLoad_of_accepted w hrot hcheck),
      rfl, rfl, rfl, rfl, rfl, rfl, rfl, rfl, rfl, rfl, rfl, rfl, rfl, rfl, rfl, rfl, slot_loaded _ _,
      slotBankUp_eq_true_iff⟩

end Sys2Proof.Proofs
end


section
/-! PROOF. SLOT_RETIRE and SLOT_RESTORE (R38, R47 to R52): the order of the checks, and what a valid slot of a rotating
channel leaves behind. -/

namespace Sys2Proof.Machine

open Sys2Proof

/-! ## The slot's flag -/

/-- The channel with slot `i` retired and nothing else changed. -/
def Channel.slotRetired (ch : Channel) (i : Fin 8) : Channel :=
  ch.setSlot i { ch.slot i with retired := true }

theorem Channel.slot_slotRetired (ch : Channel) (i k : Fin 8) :
    (ch.slotRetired i).slot k = { ch.slot k with retired := if k = i then true else (ch.slot k).retired } := by
  rw [Channel.slotRetired, Channel.slot_setSlot]
  by_cases hk : k = i
  · subst hk
    simp only [if_true]
  · simp only [if_neg hk]

theorem Channel.state_slotRetired (ch : Channel) (i k : Fin 8) :
    ((ch.slotRetired i).slot k).state = (ch.slot k).state := by
  rw [Channel.slot_slotRetired]

theorem Channel.heldCommitted_slotRetired (ch : Channel) (i : Fin 8) :
    (ch.slotRetired i).heldCommitted = ch.heldCommitted := by
  have hheld : (ch.slotRetired i).held = ch.held := rfl
  simp only [Channel.heldCommitted, hheld, Channel.state_slotRetired]

theorem beq_eq_decide_eq (i k : Fin 8) : (i == k) = decide (i = k) := rfl

theorem Channel.fillingLost_slotRetired (ch : Channel) (i : Fin 8) :
    (ch.slotRetired i).fillingLost [i] = retireAbandons ch i := by
  have hfill : (ch.slotRetired i).filling = ch.filling := rfl
  have hcopy : (ch.slotRetired i).copy = ch.copy := rfl
  cases hf : ch.filling with
  | none => simp only [Channel.fillingLost, retireAbandons, hfill, hf]
  | some t =>
    simp [Channel.fillingLost, retireAbandons, hfill, hf, hcopy, Channel.slot_slotRetired, beq_eq_decide_eq]

/-! ## The channel after the slot has left use -/

/-- The channel with its filling abandoned, when the retirement of slot `i` abandons it. -/
def Channel.retireFilling (ch : Channel) (i : Fin 8) : Channel :=
  if retireAbandons ch i then (ch.slotRetired i).fillingEnded else ch.slotRetired i

/-- The frames lost with slot `i`. -/
def Channel.retireFrames (ch : Channel) (i : Fin 8) : List (Fin 8) :=
  if retireLoses ch i then [i] else []

/-- The channel a retirement of slot `i` leaves (R47 to R50). -/
def Channel.retireLeaves (ch : Channel) (i : Fin 8) : Channel :=
  (ch.retireFilling i).loseFrames (ch.retireFrames i)

theorem retireAbandons_filling {ch : Channel} {i : Fin 8} (h : retireAbandons ch i = true) :
    ∃ t, ch.filling = some t := by
  cases hf : ch.filling with
  | none => simp [retireAbandons, hf] at h
  | some t => exact ⟨t, rfl⟩

theorem Channel.mem_retireFrames {ch : Channel} {i k : Fin 8} :
    k ∈ ch.retireFrames i ↔ k = i ∧ retireLoses ch i = true := by
  unfold Channel.retireFrames
  split
  · rename_i h
    simp [h]
  · rename_i h
    simp [h]

section
variable {ch : Channel} {i : Fin 8} (hlaw : ∀ t, ch.filling = some t → (ch.slot t).state = .filling)
include hlaw

theorem Channel.losesFrame_retireFilling : (ch.retireFilling i).losesFrame i = retireLoses ch i := by
  unfold Channel.retireFilling
  split
  · rename_i h
    obtain ⟨t, ht⟩ := retireAbandons_filling h
    rw [Channel.losesFrame_fillingEnded (ch := ch.slotRetired i) ht ((ch.state_slotRetired i t).trans (hlaw t ht)),
      Channel.state_slotRetired]
    rfl
  · rw [Channel.losesFrame, Channel.state_slotRetired]
    rfl

theorem Channel.heldCommitted_retireFilling : (ch.retireFilling i).heldCommitted = ch.heldCommitted := by
  unfold Channel.retireFilling
  split
  · rename_i h
    obtain ⟨t, ht⟩ := retireAbandons_filling h
    rw [Channel.heldCommitted_fillingEnded (ch := ch.slotRetired i) ht
      ((ch.state_slotRetired i t).trans (hlaw t ht)), Channel.heldCommitted_slotRetired]
  · exact ch.heldCommitted_slotRetired i

/-- The one request of the retirement at its channel. -/
theorem slotsLeave_slotRetired (c : ChanId) (s : State) :
    slotsLeave c [i] (ch.slotRetired i) s =
      if retireLoses ch i = true then
        raiseChannel c .lost (if retireAbandons ch i = true then
          abandonEffects c ch (s.setChan c (some (ch.retireLeaves i))) else s.setChan c (some (ch.retireLeaves i)))
      else if retireAbandons ch i = true then
        abandonEffects c ch (s.setChan c (some (ch.retireLeaves i))) else s.setChan c (some (ch.retireLeaves i)) := by
  have hframes : [i].filter (ch.retireFilling i).losesFrame = ch.retireFrames i := by
    rw [List.filter_cons, List.filter_nil, Channel.losesFrame_retireFilling hlaw, Channel.retireFrames]
  have hgone : (if (ch.retireFrames i).isEmpty then ch.retireFilling i
      else (ch.retireFilling i).loseFrames (ch.retireFrames i)) = ch.retireLeaves i := by
    rw [Channel.retireLeaves]
    cases ch.retireFrames i with
    | nil => exact (Channel.loseFrames_nil _).symm
    | cons j js => rfl
  have heffects : abandonEffects c (ch.slotRetired i) = abandonEffects c ch := rfl
  have hfilling : (if retireAbandons ch i = true then (ch.slotRetired i).fillingEnded else ch.slotRetired i)
      = ch.retireFilling i := rfl
  simp only [slotsLeave, Channel.fillingLost_slotRetired, hfilling, hframes, hgone, heffects]
  unfold Channel.retireFrames
  cases retireLoses ch i <;> rfl

omit hlaw in
theorem Channel.slot_retireLeaves (k : Fin 8) : (ch.retireLeaves i).slot k = retiredRecord ch i k := by
  rw [Channel.retireLeaves, Channel.slot_loseFrames, ite_of_iff Channel.mem_retireFrames rfl rfl]
  unfold Channel.retireFilling
  by_cases hab : retireAbandons ch i = true
  · obtain ⟨t, ht⟩ := retireAbandons_filling hab
    simp only [hab, if_true, Channel.slot_fillingEnded (ch := ch.slotRetired i) ht, Channel.slot_slotRetired,
      retiredRecord, ht, Option.some.injEq, and_true, Slot.freed]
    by_cases hk : k = t
    · subst hk
      by_cases hl : k = i ∧ retireLoses ch i = true <;> simp [hl]
    · have hk' : t ≠ k := fun e => hk e.symm
      simp only [if_neg hk, or_iff_left hk']
      by_cases hl : k = i ∧ retireLoses ch i = true
      · simp only [if_pos hl]
      · simp only [if_neg hl]
  · simp only [hab, if_false, Channel.slot_slotRetired, retiredRecord, Slot.freed, and_false, or_false, Bool.false_eq_true]
    by_cases hl : k = i ∧ retireLoses ch i = true <;> simp [hl]

theorem Channel.newest_retireLeaves : (ch.retireLeaves i).newest =
    if retireLoses ch i = true ∧ ch.newest = some i then ch.heldCommitted else ch.newest := by
  have hnew : (ch.retireFilling i).newest = ch.newest := by
    unfold Channel.retireFilling
    split
    · rename_i h
      obtain ⟨t, ht⟩ := retireAbandons_filling h
      rw [Channel.fillingEnded_of_filling (ch := ch.slotRetired i) ht]
      rfl
    · rfl
  have hcond : (∃ j, ch.newest = some j ∧ j ∈ ch.retireFrames i)
      ↔ retireLoses ch i = true ∧ ch.newest = some i := by
    simp only [Channel.mem_retireFrames]
    exact ⟨fun ⟨j, hj, he, hl⟩ => ⟨hl, he ▸ hj⟩, fun ⟨hl, hj⟩ => ⟨i, hj, rfl, hl⟩⟩
  rw [Channel.retireLeaves, Channel.newest_loseFrames, hnew, Channel.heldCommitted_retireFilling hlaw]
  exact ite_of_iff hcond rfl rfl

end

/-- What a retirement leaves of the record besides the slots and the newest field. -/
theorem Channel.retireLeaves_fields (ch : Channel) (i : Fin 8) :
    (ch.retireLeaves i).filling = (if retireAbandons ch i = true then none else ch.filling)
    ∧ (ch.retireLeaves i).copy = (if retireAbandons ch i = true then .none else ch.copy)
    ∧ (ch.retireLeaves i).waiting = (if retireAbandons ch i = true then none else ch.waiting)
    ∧ (ch.retireLeaves i).committed
        = (if retireLoses ch i = true then ch.committed.filter (fun x => x != i) else ch.committed)
    ∧ (ch.retireLeaves i).lost = (if retireLoses ch i = true then satInc ch.lost else ch.lost)
    ∧ (ch.retireLeaves i).held = ch.held ∧ (ch.retireLeaves i).frames = ch.frames
    ∧ (ch.retireLeaves i).state = ch.state ∧ (ch.retireLeaves i).config = ch.config := by
  have hbase : (ch.retireFilling i).filling = (if retireAbandons ch i = true then none else ch.filling)
      ∧ (ch.retireFilling i).copy = (if retireAbandons ch i = true then .none else ch.copy)
      ∧ (ch.retireFilling i).waiting = (if retireAbandons ch i = true then none else ch.waiting)
      ∧ (ch.retireFilling i).committed = ch.committed ∧ (ch.retireFilling i).lost = ch.lost
      ∧ (ch.retireFilling i).held = ch.held ∧ (ch.retireFilling i).frames = ch.frames
      ∧ (ch.retireFilling i).state = ch.state ∧ (ch.retireFilling i).config = ch.config := by
    unfold Channel.retireFilling
    split
    · rename_i h
      obtain ⟨t, ht⟩ := retireAbandons_filling h
      rw [Channel.fillingEnded_of_filling (ch := ch.slotRetired i) ht]
      exact ⟨rfl, rfl, rfl, rfl, rfl, rfl, rfl, rfl, rfl⟩
    · exact ⟨rfl, rfl, rfl, rfl, rfl, rfl, rfl, rfl, rfl⟩
  obtain ⟨hfill, hcopy, hwait, hcom, hlost, hheld, hframes, hstate, hcfg⟩ := hbase
  refine ⟨hfill, hcopy, hwait, ?_, ?_, hheld, hframes, hstate, hcfg⟩
  · refine (congrArg (List.filter fun x => !(ch.retireFrames i).contains x) hcom).trans ?_
    unfold Channel.retireFrames
    split <;> simp [bne, beq_eq_decide_eq]
  · refine (congrArg (fun n => satAdd n (ch.retireFrames i).length) hlost).trans ?_
    unfold Channel.retireFrames
    split <;> rfl

/-! ## The owners -/

theorem withSlot_none {f : ChanId → Channel → Fin 8 → State → CommandOutcome × State} {s : State} {c : ChanId}
    (p : Port) (w : Word) (h : s.chan c = none) : withSlot f p w c s = (.wrongState, s) := by
  simp only [withSlot, h]

theorem withSlot_large {f : ChanId → Channel → Fin 8 → State → CommandOutcome × State} {s : State} {c : ChanId}
    {ch : Channel} (p : Port) {w : Word} (h : s.chan c = some ch) (hb : ch.config.depth ≤ commandArgB w) :
    withSlot f p w c s = (.badArgument, s) := by
  simp only [withSlot, h]
  exact dif_neg fun hlt => absurd hlt.1 (Nat.not_lt.2 hb)

theorem withSlot_of_argB {f : ChanId → Channel → Fin 8 → State → CommandOutcome × State} {s : State} {c : ChanId}
    {ch : Channel} {i : Fin 8} (p : Port) {w : Word} (h : s.chan c = some ch) (hb : commandArgB w = i.val)
    (hi : i.val < ch.config.depth) : withSlot f p w c s = f c ch i s := by
  simp [withSlot, h, hb, hi]

theorem Channel.valid_setRetired (ch : Channel) (i : Fin 8) (r : Bool) :
    (ch.setSlot i { ch.slot i with retired := r }).valid i = (ch.bankUp && !r) := by
  have hslot := ch.slot_setSlot i i { ch.slot i with retired := r }
  rw [if_pos rfl] at hslot
  exact congrArg (fun x : Slot => ch.bankUp && !x.retired) hslot

end Sys2Proof.Machine

namespace Sys2Proof.Proofs

open Sys2Proof Sys2Proof.Machine

/-- Settles O52: the checks by `withSlot`, the retirement in a rotating channel by `slotsLeave_slotRetired`. -/
theorem retireAndRestore : Obligations.RetireAndRestore := by
  refine ⟨fun s p w c ht ha => ⟨fun hcode hch => ?_, fun ch hch hb hcode => ?_, fun ch i hch hb hi =>
    ⟨fun hcode hret => ?_, fun hcode hret hstill => ?_, fun hcode hret hon hup hlaw => ?_, fun hcode hret => ?_,
      fun hcode hret => ?_⟩⟩,
    fun ch i => ⟨by rw [Channel.valid_setRetired]; simp, by rw [Channel.valid_setRetired]; simp⟩⟩
  · rcases hcode with hcode | hcode
    · rw [if_pos hcode]
      exact exec_channelCommand_of_takes rfl ht ha hcode (withSlot_none p w hch)
    · rw [if_neg (by rw [hcode]; decide)]
      exact exec_channelCommand_of_takes rfl ht ha hcode (withSlot_none p w hch)
  · rcases hcode with hcode | hcode
    · rw [if_pos hcode]
      exact exec_channelCommand_of_takes rfl ht ha hcode (withSlot_large p hch hb)
    · rw [if_neg (by rw [hcode]; decide)]
      exact exec_channelCommand_of_takes rfl ht ha hcode (withSlot_large p hch hb)
  · exact exec_channelCommand_of_takes rfl ht ha hcode ((withSlot_of_argB (s := startCommand p w s) p hch hb hi).trans (if_pos hret))
  · have hnot : ¬ (ch.state ≠ .off ∧ ch.valid i = true) := by
      rintro ⟨hon, hvalid⟩
      rcases hstill with hoff | hdown
      · exact hon hoff
      · simp [Channel.valid, hdown] at hvalid
    exact exec_channelCommand_of_takes rfl ht ha hcode ((withSlot_of_argB (s := startCommand p w s) p hch hb hi).trans
      ((if_neg (by rw [hret]; decide)).trans (if_neg hnot)))
  · have hvalid : ch.valid i = true := by
      have hnot : (ch.slots.get i).retired = false := hret
      simp [Channel.valid, hup, hnot]
    obtain ⟨hfill, hcopy, hwait, hcom, hlost, hheld, hframes, hstate, hcfg⟩ := ch.retireLeaves_fields i
    refine ⟨ch.retireLeaves i, _, rfl, ?_, Channel.slot_retireLeaves, hfill, hcopy, hwait,
      Channel.newest_retireLeaves hlaw, hcom, hlost, hheld, hframes, hstate, hcfg⟩
    refine exec_channelCommand_of_takes rfl ht ha hcode ((withSlot_of_argB (s := startCommand p w s) p hch hb hi).trans
      ((if_neg (by rw [hret]; decide)).trans ((if_pos ⟨hon, hvalid⟩).trans ?_)))
    exact congrArg (Prod.mk CommandOutcome.done) (slotsLeave_slotRetired hlaw c (startCommand p w s))
  · exact exec_channelCommand_of_takes rfl ht ha hcode
      ((withSlot_of_argB (s := startCommand p w s) p hch hb hi).trans (if_neg (by rw [hret]; decide)))
  · exact exec_channelCommand_of_takes rfl ht ha hcode ((withSlot_of_argB (s := startCommand p w s) p hch hb hi).trans (if_pos hret))

end Sys2Proof.Proofs
end


section
/-! PROOF. The retry and probe sequence (R148 to R151) and the bank commands (R152 to R154). -/

namespace Sys2Proof.Machine

open Sys2Proof

/-! ## A bank's record under the check unit -/

theorem bank_countUncorrectable (src : Source) (b d : BankId) (addr : Nat) (s : State) :
    ∃ n, (countUncorrectable src b addr s).bank d = { s.bank d with ueCount := n } := by
  obtain ⟨g, h⟩ := countUncorrectable_eq src b addr s
  rw [h]
  change ∃ n, (s.setBank b { s.bank b with ueCount := satInc (s.bank b).ueCount }).bank d
    = { s.bank d with ueCount := n }
  by_cases hd : d = b
  · subst hd
    rw [bank_setBank_same]
    exact ⟨_, rfl⟩
  · rw [bank_setBank_ne _ _ hd]
    exact ⟨(s.bank d).ueCount, rfl⟩

theorem bank_of_banks {s t : State} (h : t.banks = s.banks) (d : BankId) : t.bank d = s.bank d := by
  rw [State.bank, h, State.bank]

theorem bank_readClassed (src : Source) (b d : BankId) (addr : Nat) (cls : CheckClass) (bud : Option Nat) (s : State) :
    ∃ n, (readClassed src b addr cls bud s).2.2.bank d = { s.bank d with ueCount := n } := by
  have hself : ∃ n, s.bank d = { s.bank d with ueCount := n } := ⟨(s.bank d).ueCount, rfl⟩
  cases cls with
  | clean => exact hself
  | corrected v =>
    cases h : spend bud with
    | none => simpa only [readClassed, h] using hself
    | some bud1 =>
      obtain ⟨-, -, hbanks⟩ := countCorrected_memory (storeWord b addr v s)
      have hbank : (countCorrected (storeWord b addr v s)).bank d = s.bank d := bank_of_banks hbanks d
      simpa only [readClassed, h, hbank] using hself
  | uncorrectable =>
    cases h : spend bud with
    | none => simpa only [readClassed, h] using hself
    | some bud1 =>
      simp only [readClassed, h]
      exact bank_countUncorrectable src b d addr (storePoison addr (wordRead s.ram addr) s)
  | poisoned =>
    have hbank : (countPoisoned src s).bank d = s.bank d := bank_of_banks (banks_countPoisoned src s) d
    simpa only [readClassed, hbank] using hself

/-- A read access changes nothing of a bank's record but its UE count. -/
theorem bank_readAccess (src : Source) (b d : BankId) (addr : Nat) (bud : Option Nat) (s : State) :
    ∃ n, (readAccess src b addr bud s).2.2.bank d = { s.bank d with ueCount := n } := by
  have hself : ∃ n, s.bank d = { s.bank d with ueCount := n } := ⟨(s.bank d).ueCount, rfl⟩
  unfold readAccess
  split
  · exact hself
  · split
    · exact bank_readClassed ..
    · exact hself

theorem setBank_setBank (s : State) (b : BankId) (x y : Bank) : (s.setBank b x).setBank b y = s.setBank b y :=
  congrArg (fun v => ({ s with banks := v } : State)) (vector_set_set s.banks b x y)

/-! ## The timer and the probe's end -/

theorem exec_retryTimerExpiry_of_due {s : State} {b : BankId} (hpin : s.pinAsserted = false)
    (hs : (s.bank b).service = .retryWait) (ht : (s.bank b).retryTimer = .due) :
    exec (.retryTimerExpiry b) s = .next (settle s
      (s.setBank b { s.bank b with service := .probing, retryTimer := .stopped, probe := .waiting })) :=
  next_event_of_some hpin (if_pos ⟨hs, ht⟩)

theorem exec_probeEnd_of_busy {s u : State} {b : BankId} {addr n : Nat} (hpin : s.pinAsserted = false)
    (hbusy : s.arbiter.busy = some ⟨.probe b addr, n⟩)
    (hu : u = settle s (readAccess .probe b addr none (s.setBusy none)).2.2) :
    exec (.probeEnd b) s = .next (settle s (probeCompleted b u)) := by
  refine next_event_of_some hpin ?_
  simp only [probeEnd, hbusy, if_true, ← hu]

theorem exec_probeEnd_of_idle {s t : State} {b : BankId} (hpin : s.pinAsserted = false)
    (hbusy : s.arbiter.busy = none) (ht : probeOutcome b s = some t) :
    exec (.probeEnd b) s = .next (settle s t) := by
  refine next_event_of_some hpin ?_
  simp only [probeEnd, hbusy, ht]

theorem probeCompleted_of_probing {s : State} {b : BankId} (hs : (s.bank b).service = .probing)
    (hp : (s.bank b).probe = .inFlight) : probeCompleted b s = bankEnters b s := by
  simp only [probeCompleted, hp, hs, if_true]

theorem probeCompleted_of_discarded {s : State} {b : BankId} (hp : (s.bank b).probe = .discarded) :
    probeCompleted b s = s.setBank b { s.bank b with probe := .none } := by
  simp only [probeCompleted, hp, State.setProbe]

theorem probeOutcome_of_timedOut {s : State} {b : BankId} (hs : (s.bank b).service = .probing)
    (hp : (s.bank b).probe = .timedOut) : probeOutcome b s = some (probeFailed b (s.setProbe b .none)) := by
  simp only [probeOutcome, hp, hs, if_true]

theorem val_bumpRetries (n : Fin 16) : (bumpRetries n).val = min (n.val + 1) 15 := by
  unfold bumpRetries
  split
  · change n.val + 1 = min (n.val + 1) 15
    omega
  · omega

/-! ## The failed probe -/

theorem bank_setProbe (s : State) (b : BankId) (p : Probe) : (s.setProbe b p).bank b = { s.bank b with probe := p } :=
  bank_setBank_same ..

/-- A failed probe tried again: the record as it stood, its probe over and its chance counted. -/
theorem probeRetry_setProbe (s : State) (b : BankId) {period : Nat} (rfull : Bool) (h : period ≠ 0) :
    probeRetry b period rfull (s.setProbe b .none) = raiseBoth .bankRetry (s.setBank b
      { s.bank b with
        service := .retryWait, probe := .none, retryTimer := .running period
        retries := bumpRetries (s.bank b).retries
        rfull := rfull }) := by
  rw [probeRetry, bank_setProbe, startTimer_of_ne h, State.setProbe, setBank_setBank]

/-- A failed probe that fences its bank. -/
theorem probeFences_setProbe (s : State) (b : BankId) :
    probeFences b (s.setProbe b .none) = raiseBoth .bankFenced (s.setBank b
      { s.bank b with
        service := .fenced, probe := .none, cause := .timeout, faultTime := some s.msCount, retryTimer := .stopped }) := by
  rw [probeFences, bank_setProbe, State.setProbe, setBank_setBank]
  rfl

section
variable {s : State} {b : BankId} {cfg : BankConfig} (hcfg : (s.bank b).config = some cfg)
include hcfg

theorem probeFailed_limited (hmode : cfg.retryMode = .limited) (hfull : (s.bank b).rfull = false) :
    probeFailed b s = probeRetry b cfg.retryPeriod ((bumpRetries (s.bank b).retries).val == 15) s := by
  simp only [probeFailed, hcfg, hmode, hfull, Bool.false_eq_true, if_false]

theorem probeFailed_unlimited (hmode : cfg.retryMode = .unlimited) :
    probeFailed b s = probeRetry b cfg.retryPeriod (s.bank b).rfull s := by
  simp only [probeFailed, hcfg, hmode]

theorem probeFailed_last (h : cfg.retryMode = .off ∨ (cfg.retryMode = .limited ∧ (s.bank b).rfull = true)) :
    probeFailed b s = probeFences b s := by
  rcases h with hmode | ⟨hmode, hfull⟩
  · simp only [probeFailed, hcfg, hmode]
  · simp only [probeFailed, hcfg, hmode, hfull, if_true]

end

/-! ## The bank commands -/

/-- The step of a command of a bank. -/
theorem exec_bankCommand_of_takes {i : Instr} {n : Nat} {f : BankId → State → CommandOutcome × State}
    {s t : State} {p : Port} {w : Word} {b : BankId} {o : CommandOutcome}
    (hi : exec i s = .next (event s (runCommand (codeIs n) (withBank f)))) (ht : s.takes p w)
    (ha : commandArgA w = b.val) (hcode : commandCode w = n) (ho : f b (startCommand p w s) = (o, t)) :
    exec i s = .next (settle s (endCommand p o t)) :=
  exec_command_of_takes hi ht hcode ((withBank_of_argA p _ ha).trans ho)

theorem bankClearRetries_unused {s : State} {b : BankId} (h : (s.bank b).service = .unused) :
    bankClearRetries b s = (.wrongState, s) := by
  have hs : (s.bank b).retriesCleared.service = .unused := h
  simp only [bankClearRetries, hs]

theorem bankClearRetries_other {s : State} {b : BankId} (hu : (s.bank b).service ≠ .unused)
    (hf : (s.bank b).service ≠ .fenced) :
    bankClearRetries b s = (.done, s.setBank b (s.bank b).retriesCleared) := by
  have hs : (s.bank b).retriesCleared.service = (s.bank b).service := rfl
  cases hservice : (s.bank b).service with
  | unused => exact absurd hservice hu
  | fenced => exact absurd hservice hf
  | _ => simp only [bankClearRetries, hs, hservice]

theorem bankClearRetries_fenced {s : State} {b : BankId} {cfg : BankConfig} (h : (s.bank b).service = .fenced)
    (hcfg : (s.bank b).config = some cfg) (hperiod : cfg.retryPeriod ≠ 0) :
    bankClearRetries b s = (.done, raiseBoth .bankRetry (s.setBank b
      { s.bank b with
        retries := 0, rfull := false, service := .retryWait, retryTimer := .running cfg.retryPeriod })) := by
  have hs : (s.bank b).retriesCleared.service = .fenced := h
  have htimer : (s.bank b).retriesCleared.periodTimer = .running cfg.retryPeriod := by
    have hself : (s.bank b).retriesCleared.config = some cfg := hcfg
    simp only [Bank.periodTimer, hself, startTimer_of_ne hperiod]
  simp only [bankClearRetries, hs, htimer]
  rfl

theorem bankFence_wrong {s : State} {b : BankId} (h : (s.bank b).service = .unused ∨ (s.bank b).service = .fenced) :
    bankFence b s = (.wrongState, s) := by
  rcases h with h | h <;> simp only [bankFence, h]

theorem bankFence_inService {s : State} {b : BankId} (h : (s.bank b).service = .inService) :
    bankFence b s = (.done, departFenced b .command s) := by
  simp only [bankFence, h]

theorem bankFence_retryWait {s : State} {b : BankId} (h : (s.bank b).service = .retryWait) :
    bankFence b s = (.done, raiseBoth .bankFenced (s.setBank b
      { s.bank b with
        service := .fenced, cause := .command, faultTime := some s.msCount, retryTimer := .stopped })) := by
  simp only [bankFence, h]
  rfl

theorem bankFence_probing {s : State} {b : BankId} {q : Probe} (h : (s.bank b).service = .probing)
    (hq : fencedProbe (s.bank b).probe = q) :
    bankFence b s = (.done, raiseBoth .bankFenced (s.setBank b
      { s.bank b with
        service := .fenced, cause := .command, faultTime := some s.msCount, retryTimer := .stopped, probe := q })) := by
  simp only [bankFence, h, hq]
  rfl

end Sys2Proof.Machine

namespace Sys2Proof.Proofs

open Sys2Proof Sys2Proof.Machine

/-- Settles O47: the probe's read leaves the bank's record but for its UE count, which an entry into service clears. -/
theorem retryAndProbe : Obligations.RetryAndProbe := by
  refine ⟨fun s b hpin hs ht => exec_retryTimerExpiry_of_due hpin hs ht, fun s u b addr n hpin hbusy hu => ?_,
    fun s b cfg hpin hbusy hcfg hs hp hperiod => ?_, val_bumpRetries⟩
  · have hbank : ∃ k, u.bank b = { s.bank b with ueCount := k } := by
      rw [hu]
      exact bank_readAccess .probe b b addr none (s.setBusy none)
    obtain ⟨k, hk⟩ := hbank
    rw [exec_probeEnd_of_busy hpin hbusy hu]
    refine ⟨fun hs hp => ?_, fun hp => ?_⟩
    · rw [probeCompleted_of_probing (by rw [hk]; exact hs) (by rw [hk]; exact hp), bankEnters, hk]
    · rw [probeCompleted_of_discarded (by rw [hk]; exact hp)]
  · have hbase : ((s.setProbe b .none).bank b).config = some cfg := by rw [bank_setProbe]; exact hcfg
    have hrfull : ((s.setProbe b .none).bank b).rfull = (s.bank b).rfull := by rw [bank_setProbe]
    have hretries : ((s.setProbe b .none).bank b).retries = (s.bank b).retries := by rw [bank_setProbe]
    rw [exec_probeEnd_of_idle hpin hbusy (probeOutcome_of_timedOut hs hp)]
    refine ⟨fun hmode hfull => ?_, fun hmode => ?_, fun h => ?_⟩
    · rw [probeFailed_limited hbase hmode (hrfull.trans hfull), hretries, probeRetry_setProbe s b _ hperiod]
    · rw [probeFailed_unlimited hbase hmode, hrfull, probeRetry_setProbe s b _ hperiod]
    · rw [probeFailed_last hbase (by rwa [hrfull]), probeFences_setProbe]

/-- Settles O53: each command by its owner's answer for the service state, and a fence of a PROBING bank by what it
makes of the probe. -/
theorem bankCommands : Obligations.BankCommands := by
  refine ⟨fun s p w b ht hcode ha => ⟨fun hs => ?_, fun hs => ?_⟩, fun s p w b ht ha => ⟨fun hcode =>
    ⟨fun hs => ?_, fun hu hf => ?_, fun cfg hs hcfg hperiod => ?_⟩, fun hcode => ⟨fun hs => ?_, fun hs => ?_,
      fun hs => ?_, fun hs hp => ?_, fun hs hp => ?_, fun hs hp => ?_⟩⟩⟩
  · exact exec_bankCommand_of_takes rfl ht ha hcode (if_pos hs)
  · exact exec_bankCommand_of_takes rfl ht ha hcode (if_neg hs)
  · exact exec_bankCommand_of_takes rfl ht ha hcode (bankClearRetries_unused hs)
  · exact exec_bankCommand_of_takes rfl ht ha hcode (bankClearRetries_other (s := startCommand p w s) hu hf)
  · exact exec_bankCommand_of_takes rfl ht ha hcode
      (bankClearRetries_fenced (s := startCommand p w s) hs hcfg hperiod)
  · exact exec_bankCommand_of_takes rfl ht ha hcode (bankFence_wrong (s := startCommand p w s) hs)
  · exact exec_bankCommand_of_takes rfl ht ha hcode (bankFence_inService (s := startCommand p w s) hs)
  · exact exec_bankCommand_of_takes rfl ht ha hcode (bankFence_retryWait (s := startCommand p w s) hs)
  · exact exec_bankCommand_of_takes rfl ht ha hcode
      (bankFence_probing (s := startCommand p w s) hs (congrArg fencedProbe hp))
  · exact exec_bankCommand_of_takes rfl ht ha hcode
      (bankFence_probing (s := startCommand p w s) hs (congrArg fencedProbe hp))
  · exact exec_bankCommand_of_takes rfl ht ha hcode
      (bankFence_probing (s := startCommand p w s) hs (congrArg fencedProbe hp))

end Sys2Proof.Proofs
end


section
/-! PROOF. RELOAD begins LOADING in its own step (R169, R170): the ports, each by its phase, and the blocks as
`reloadBlocks` leaves them. -/

namespace Sys2Proof.Machine

open Sys2Proof

/-- A port's record after RELOAD: an access not yet granted is answered UNAVAILABLE, without the effects a fault has
outside LOADING. -/
def reloadedPort (r : PortRecord) : PortRecord :=
  match r.phase with
  | .atChannel _ _ _ | .waitingCommit _ _ | .keptBack _ _ _ _ | .atArbiter _ _ =>
    { r with phase := .idle, hold := .stopped, answer := some ⟨[], some .unavailable⟩ }
  | .held _ | .idle | .granted _ _ | .handover _ _ _ _ => r

theorem setPort_self (s : State) (p : Port) : s.setPort p (s.port p) = s := by cases p <;> rfl

theorem reloadPort_of_loading {s : State} (p : Port) (h : s.device = .loading) :
    reloadPort p s = s.setPort p (reloadedPort (s.port p)) := by
  cases hphase : (s.port p).phase with
  | atChannel | waitingCommit | keptBack | atArbiter =>
    simp only [reloadPort, reloadedPort, hphase, answerFault, giveAnswer_fault_loading h]
  | held | idle | granted | handover => simp only [reloadPort, reloadedPort, hphase, setPort_self]

theorem enterLoading_eq (s : State) : enterLoading s = { reloadBlocks s with
    ports := ⟨reloadedPort { s.ports.first with holdLimit := 10000 },
      reloadedPort { s.ports.second with holdLimit := 10000 }⟩ } := by
  rw [enterLoading, reloadPort_of_loading .port0 rfl, reloadPort_of_loading .port1 rfl]
  rfl

theorem port_enterLoading (s : State) (p : Port) :
    (enterLoading s).port p = reloadedPort { s.port p with holdLimit := 10000 } := by
  rw [enterLoading_eq]
  cases p <;> rfl

/-! ## A port's record by its phase -/

/-- The record of a port whose access was answered. -/
def reloadAnswered (r r' : PortRecord) : Prop :=
  r'.phase = .idle ∧ r'.answer = some ⟨[], some .unavailable⟩ ∧ r'.faultCount = r.faultCount

theorem reloadedPort_atArbiter {r : PortRecord} {a : Access} {op : PortOp} (h : r.phase = .atArbiter a op)
    (n : BitVec 16) : reloadAnswered r (reloadedPort { r with holdLimit := n }) := by
  simp only [reloadedPort, h, reloadAnswered, and_self]

theorem reloadedPort_waitingCommit {r : PortRecord} {a : Access} {c : ChanId} (h : r.phase = .waitingCommit a c)
    (n : BitVec 16) : reloadAnswered r (reloadedPort { r with holdLimit := n }) := by
  simp only [reloadedPort, h, reloadAnswered, and_self]

theorem reloadedPort_atChannel {r : PortRecord} {a : Access} {c : ChanId} {off : Nat} (h : r.phase = .atChannel a c off)
    (n : BitVec 16) : reloadAnswered r (reloadedPort { r with holdLimit := n }) := by
  simp only [reloadedPort, h, reloadAnswered, and_self]

theorem reloadedPort_keptBack {r : PortRecord} {a : Access} {op : PortOp} {c : ChanId} {i : Fin 8}
    (h : r.phase = .keptBack a op c i) (n : BitVec 16) :
    reloadAnswered r (reloadedPort { r with holdLimit := n }) := by
  simp only [reloadedPort, h, reloadAnswered, and_self]

theorem reloadedPort_granted {r : PortRecord} {a : Access} {op : PortOp} (h : r.phase = .granted a op)
    (n : BitVec 16) : (reloadedPort { r with holdLimit := n }).phase = .granted a op := by
  simp only [reloadedPort, h]

theorem holdLimit_reloadedPort (r : PortRecord) : (reloadedPort r).holdLimit = r.holdLimit := by
  unfold reloadedPort
  split <;> rfl

/-! ## The other blocks -/

theorem bank_reloadBlocks (s : State) (b : BankId) : (reloadBlocks s).bank b = reloadBank (s.bank b) :=
  vector_get_map _ _ b

theorem queue_reloadCopy (s : State) : (reloadCopy s).queue = [] := by
  unfold reloadCopy
  split
  · split <;> rfl
  · rfl

theorem command_enterLoading_startCommand (s : State) (p : Port) (w : Word) :
    ((enterLoading (startCommand p w s)).command p).state = .executing w := by
  rw [enterLoading_eq]
  cases p <;> rfl

theorem command_enterLoading_other {s : State} {p : Port} {v : Word} {n : Nat} (w : Word)
    (h : (s.command (otherPort p)).state = .pending v n) :
    ((enterLoading (startCommand p w s)).command (otherPort p)).state = .idle := by
  have hdiscard : (enterLoading (startCommand p w s)).command (otherPort p)
      = discardPending (s.command (otherPort p)) := by
    rw [enterLoading_eq]
    cases p <;> rfl
  simp only [hdiscard, discardPending, h]

theorem exec_reload_of_takes {s : State} {p : Port} {w : Word} (ht : s.takes p w) (hcode : commandCode w = 0x0F) :
    exec .reload s = .next (settle s (enterLoading (startCommand p w s))) := by
  have hlisted : codeIs 0x0F (commandCode w) = true := by rw [hcode]; rfl
  have ⟨⟨hpin, _⟩, _⟩ := ht
  refine next_event_of_some hpin ?_
  simp only [reloadCommand, takeCommand_of_takes ht hlisted]

end Sys2Proof.Machine

namespace Sys2Proof.Proofs

open Sys2Proof Sys2Proof.Machine

/-- Settles O56: from `enterLoading_eq`, the ports each by their phase before the step. -/
theorem reloadBeginsLoading : Obligations.ReloadBeginsLoading := by
  intro s p w ht hcode
  have ⟨⟨hpin, _⟩, _⟩ := ht
  have hblocks := enterLoading_eq (startCommand p w s)
  have hport : ∀ q, (settle s (enterLoading (startCommand p w s))).port q
      = reloadedPort { s.port q with holdLimit := 10000 } := port_enterLoading (startCommand p w s)
  have hdev : (settle s (enterLoading (startCommand p w s))).device = .loading := by
    rw [device_settle, hblocks]
    rfl
  have hselect : (settle s (enterLoading (startCommand p w s))).configSelect = true := by
    simp only [State.configSelect, device_settle, loader_settle, pinAsserted_settle, hblocks]
    simp [reloadBlocks, startCommand, hpin, Loader.fresh]
  refine ⟨_, exec_reload_of_takes ht hcode, hdev, ?cause, ?phase, hselect, if_pos hselect, ?ms, ?us,
    dirty_settle_loading _ _ hdev, ?lock, ?copyPass, ?mirrorPass, ?busy, ?queue, ?ram, ?lanes,
    command_enterLoading_startCommand s p w, fun v n h => command_enterLoading_other w h, fun q => ?limit,
    fun q a op h => ?atArbiter, fun q a c h => ?waiting, fun q a c off h => ?atChannel, fun q a op c i h => ?kept,
    fun q a op h => ?granted, fun b => ?bank, ?bcb, ?clock⟩
  case queue => exact (congrArg (fun t : State => t.copy.queue) hblocks).trans (queue_reloadCopy _)
  case limit => rw [hport, holdLimit_reloadedPort]
  case atArbiter => rw [hport]; exact reloadedPort_atArbiter h _
  case waiting => rw [hport]; exact reloadedPort_waitingCommit h _
  case atChannel => rw [hport]; exact reloadedPort_atChannel h _
  case kept => rw [hport]; exact reloadedPort_keptBack h _
  case granted => rw [hport]; exact reloadedPort_granted h _
  case bank =>
    have hbank : (settle s (enterLoading (startCommand p w s))).bank b = reloadBank (s.bank b) :=
      (congrArg (fun t : State => t.bank b) hblocks).trans (bank_reloadBlocks _ b)
    rw [hbank]
    exact ⟨rfl, rfl, rfl⟩
  all_goals
    rw [hblocks]
    rfl

end Sys2Proof.Proofs
end


section
/-! PROOF. The checks of a configuration (R31 to R33, R172, R173, R177), each as what it asks. -/

namespace Sys2Proof.Machine

open Sys2Proof

/-! ## Ranges -/

theorem rangesOverlap_iff {b1 n1 b2 n2 : Nat} : rangesOverlap b1 n1 b2 n2 = true ↔ share b1 n1 b2 n2 := by
  simp only [rangesOverlap, Bool.and_eq_true, decide_eq_true_iff, share]
  refine ⟨fun ⟨⟨⟨h1, h2⟩, h3⟩, h4⟩ => ⟨max b1 b2, by omega, by omega⟩, ?_⟩
  rintro ⟨a, ⟨h1, h2⟩, h3, h4⟩
  omega

theorem rangesOverlap_eq_false_iff {b1 n1 b2 n2 : Nat} : (!rangesOverlap b1 n1 b2 n2) = true ↔ ¬ share b1 n1 b2 n2 := by
  rw [Bool.not_eq_true', Bool.eq_false_iff, Ne, rangesOverlap_iff]

theorem share_comm {b1 n1 b2 n2 : Nat} : share b1 n1 b2 n2 ↔ share b2 n2 b1 n1 :=
  exists_congr fun _ => and_comm

theorem disjointRanges_iff {l : List (Nat × Nat)} :
    disjointRanges l = true ↔ l.Pairwise fun r q => ¬ share r.1 r.2 q.1 q.2 := by
  induction l with
  | nil => simp [disjointRanges]
  | cons r rest ih =>
    simp only [disjointRanges, Bool.and_eq_true, List.all_eq_true, rangesOverlap_eq_false_iff, ih, List.pairwise_cons]

theorem inOneBank_iff {e : Surroundings} {base len : Nat} :
    e.inOneBank base len = true ↔ insideOne e.banks base len := by
  simp only [Surroundings.inOneBank, List.any_eq_true, Bool.and_eq_true, decide_eq_true_iff, insideOne]

/-! ## The checks of an image -/

theorem lengthOk_iff {bytes : List Byte} : lengthOk bytes = true ↔
    bitsOf (imageWord bytes 3) 0 8 = 4 ∧ bitsOf (imageWord bytes 3) 8 8 = 8 ∧ bitsOf (imageWord bytes 3) 16 8 ≤ 16
      ∧ (imageWord bytes 2).toNat = 42 + 16 * bitsOf (imageWord bytes 3) 16 8 := by
  simp only [lengthOk, Bool.and_eq_true, beq_iff_eq, decide_eq_true_iff]
  rw [expectedLength]
  constructor
  · rintro ⟨⟨⟨⟨h1, h2⟩, h3⟩, h4⟩, -⟩
    exact ⟨h1, h2, h3, h4⟩
  · rintro ⟨h1, h2, h3, h4⟩
    exact ⟨⟨⟨⟨h1, h2⟩, h3⟩, h4⟩, by omega⟩

theorem crcOk_iff {bytes : List Byte} : crcOk bytes = true ↔
    imageWord bytes (41 + 16 * bitsOf (imageWord bytes 3) 16 8)
      = crc32 ((List.range (4 * (41 + 16 * bitsOf (imageWord bytes 3) 16 8))).map (imageByte bytes)) := by
  have hlen : expectedLength (channelCount bytes) - 1 = 41 + 16 * bitsOf (imageWord bytes 3) 16 8 := by
    rw [expectedLength, channelCount]
    omega
  rw [crcOk, crcBytes, hlen, beq_iff_eq]

theorem fieldsListed_iff {bytes : List Byte} : fieldsListed bytes = true ↔
    8 ≤ bitsOf (imageWord bytes 4) 0 8 ∧ bitsOf (imageWord bytes 4) 0 8 ≤ 200
      ∧ bitsOf (imageWord bytes 7) 0 2 < 3 ∧ bitsOf (imageWord bytes 7) 2 2 < 3 ∧ bitsOf (imageWord bytes 7) 4 2 < 2
      ∧ (∀ b : Fin 4, bankListed (imageWord bytes (9 + 4 * b.val)) (imageWord bytes (11 + 4 * b.val)) = true)
      ∧ (∀ r : Fin 8, regionListed (imageWord bytes (25 + 2 * r.val)) = true)
      ∧ (∀ e ∈ imageEntries bytes, e.number < 16 ∧ e.listed = true) := by
  simp only [fieldsListed, deviceListed, Bool.and_eq_true, decide_eq_true_iff, List.all_eq_true, mem_bankIds,
    mem_slotIds, true_implies, and_assoc]

theorem bankListed_iff {w0 w2 : Word} : bankListed w0 w2 = true ↔
    bitsOf w0 0 2 = 0
      ∨ (bitsOf w0 0 2 = 1 ∧ bitsOf w0 2 2 < 2 ∧ bitsOf w0 4 2 < 2 ∧ bitsOf w0 8 4 < 8 ∧ bitsOf w0 20 2 < 2
        ∧ (bitsOf w0 20 2 = 1 → bitsOf w0 24 8 ≠ 0) ∧ bitsOf w2 0 2 < 3) := by
  simp only [bankListed, Bool.and_eq_true, Bool.or_eq_true, decide_eq_true_iff, beq_iff_eq, bne_iff_ne]
  omega

theorem regionListed_iff {w0 : Word} : regionListed w0 = true ↔
    bitsOf w0 0 2 = 0 ∨ (bitsOf w0 0 2 = 1 ∧ bitsOf w0 4 2 < 3 ∧ bitsOf w0 6 2 < 3) := by
  simp only [regionListed, Bool.and_eq_true, Bool.or_eq_true, decide_eq_true_iff, beq_iff_eq]
  omega

theorem listed_iff {e : EntryWords} : e.listed = true ↔
    bitsOf e.w0 8 2 < 2 ∧ bitsOf e.w0 16 2 < 2 ∧ bitsOf e.w0 18 2 < 2 ∧ bitsOf e.w0 20 2 < 2 ∧ bitsOf e.w0 24 2 < 2
      ∧ bitsOf e.w0 28 2 < 2 := by
  simp [EntryWords.listed]

/-! ## Banks, BCB and regions -/

theorem mem_configuredBanks {banks : Vector (Option BankConfig) 4} {cfg : BankConfig} :
    cfg ∈ configuredBanks banks ↔ ∃ b, banks.get b = some cfg := by
  simp only [configuredBanks, List.mem_filterMap, mem_bankIds, true_and]

theorem bankPlaced_iff {x : BankConfig} : bankPlaced x = true ↔
    x.base % 65536 = 0 ∧ x.base + x.size ≤ 2 ^ 24 ∧ 4 * x.probeOffset < x.size := by
  simp only [bankPlaced, Bool.and_eq_true, beq_iff_eq, decide_eq_true_iff, and_assoc]

/-- Two banks of an image share no address, where both are configured. -/
def banksApart (banks : Vector (Option BankConfig) 4) (b d : BankId) : Prop :=
  ∀ x, banks.get b = some x → ∀ y, banks.get d = some y → ¬ share x.base x.size y.base y.size

theorem banksApart_symm {banks : Vector (Option BankConfig) 4} {b d : BankId} (h : banksApart banks b d) :
    banksApart banks d b :=
  fun y hy x hx hs => h x hx y hy (share_comm.1 hs)

/-- The list of the banks meets each pair of different banks once, in one of its two orders. -/
theorem pairwise_bankIds {R : BankId → BankId → Prop} (hsymm : ∀ b d, R b d → R d b) :
    bankIds.Pairwise R ↔ ∀ b d, b ≠ d → R b d := by
  have hget : ∀ b : BankId, bankIds[b.val]'b.isLt = b := by decide
  rw [List.pairwise_iff_getElem]
  constructor
  · intro h b d hne
    rcases Nat.lt_or_gt_of_ne (fun e => hne (Fin.ext e)) with hlt | hlt
    · have hbd := h b.val d.val b.isLt d.isLt hlt
      rwa [hget b, hget d] at hbd
    · have hdb := h d.val b.val d.isLt b.isLt hlt
      rw [hget d, hget b] at hdb
      exact hsymm d b hdb
  · intro h i j hi hj hlt
    have hij := h ⟨i, hi⟩ ⟨j, hj⟩ fun e => Nat.ne_of_lt hlt (congrArg Fin.val e)
    rwa [← hget ⟨i, hi⟩, ← hget ⟨j, hj⟩] at hij

theorem disjointRanges_banks {banks : Vector (Option BankConfig) 4} :
    disjointRanges (bankRanges (configuredBanks banks)) = true ↔
      ∀ b d x y, b ≠ d → banks.get b = some x → banks.get d = some y → ¬ share x.base x.size y.base y.size := by
  have hpairs : disjointRanges (bankRanges (configuredBanks banks)) = true ↔ bankIds.Pairwise (banksApart banks) := by
    rw [disjointRanges_iff, bankRanges, List.pairwise_map, configuredBanks, List.pairwise_filterMap]
    exact Iff.rfl
  rw [hpairs, pairwise_bankIds fun _ _ => banksApart_symm]
  exact ⟨fun h b d x y hne hx hy => h b d hne x hx y hy, fun h b d hne x hx y hy => h b d x y hne hx hy⟩

theorem banksOk_iff {img : Image} : banksOk img = true ↔
    (∀ b cfg, img.banks.get b = some cfg →
      cfg.base % 65536 = 0 ∧ cfg.base + cfg.size ≤ 2 ^ 24 ∧ 4 * cfg.probeOffset < cfg.size)
    ∧ (∀ b d x y, b ≠ d → img.banks.get b = some x → img.banks.get d = some y →
      ¬ share x.base x.size y.base y.size) := by
  rw [banksOk, Bool.and_eq_true, disjointRanges_banks, List.all_eq_true]
  refine and_congr_left fun _ => ⟨fun h b cfg hb => bankPlaced_iff.1 (h cfg (mem_configuredBanks.2 ⟨b, hb⟩)), ?_⟩
  intro h cfg hcfg
  obtain ⟨b, hb⟩ := mem_configuredBanks.1 hcfg
  exact bankPlaced_iff.2 (h b cfg hb)

theorem bcbOk_iff {img : Image} : bcbOk img = true ↔
    img.bcbBase % 4096 = 0
    ∧ ∃ b cfg, img.banks.get b = some cfg ∧ cfg.base ≤ img.bcbBase ∧ img.bcbBase + 4096 ≤ cfg.base + cfg.size := by
  simp only [bcbOk, Bool.and_eq_true, beq_iff_eq, List.any_eq_true, decide_eq_true_iff]
  refine and_congr_right fun _ => ⟨?_, ?_⟩
  · rintro ⟨r, hr, hbase, hend⟩
    obtain ⟨cfg, hcfg, rfl⟩ := mem_bankRanges.1 hr
    obtain ⟨b, hb⟩ := mem_configuredBanks.1 hcfg
    exact ⟨b, cfg, hb, hbase, hend⟩
  · rintro ⟨b, cfg, hb, hbase, hend⟩
    exact ⟨_, mem_bankRanges.2 ⟨cfg, mem_configuredBanks.2 ⟨b, hb⟩, rfl⟩, hbase, hend⟩

theorem regionsOk_iff {img : Image} : regionsOk img = true ↔
    ∀ r, (img.regions.get r).enabled = true →
      (img.regions.get r).base.toNat ≤ (img.regions.get r).limit.toNat := by
  simp only [regionsOk, List.all_eq_true, mem_slotIds, true_implies, Bool.or_eq_true, Bool.not_eq_true',
    decide_eq_true_iff]
  refine forall_congr' fun r => ?_
  cases (img.regions.get r).enabled <;> simp

/-! ## The checks of a channel -/

theorem substituteAligned_iff {sub : Option Nat} : substituteAligned sub = true ↔ ∀ b, sub = some b → b % 64 = 0 := by
  cases sub <;> simp [substituteAligned]

theorem depthOk_iff {cfg : ChannelConfig} : cfg.depthOk = true ↔
    2 ≤ cfg.depth ∧ (cfg.mode = .latest → cfg.depth ≤ 4) ∧ (cfg.mode = .queue → cfg.depth ≤ 8) := by
  cases hmode : cfg.mode <;> simp [ChannelConfig.depthOk, hmode]

theorem policyOk_iff {cfg : ChannelConfig} :
    (cfg.policy == .hold || (cfg.mode == .latest && cfg.substitute.isSome)) = true ↔
      (cfg.policy = .substitute → cfg.mode = .latest ∧ cfg.substitute ≠ none) := by
  cases cfg.policy <;> simp [Option.isSome_iff_ne_none]

theorem carryOk_iff {cfg : ChannelConfig} :
    (!cfg.carry || cfg.mode == .latest) = true ↔ (cfg.carry = true → cfg.mode = .latest) := by
  cases cfg.carry <;> simp

theorem fieldsOk_iff {cfg : ChannelConfig} : cfg.fieldsOk = true ↔
    16 ≤ cfg.len ∧ cfg.len ≤ 4096 ∧ cfg.len % 16 = 0 ∧ cfg.windowBase % 64 = 0 ∧ cfg.slotBase % 64 = 0
      ∧ (∀ b, cfg.substitute = some b → b % 64 = 0)
      ∧ (2 ≤ cfg.depth ∧ (cfg.mode = .latest → cfg.depth ≤ 4) ∧ (cfg.mode = .queue → cfg.depth ≤ 8))
      ∧ cfg.writer ≠ cfg.reader ∧ (cfg.carry = true → cfg.mode = .latest)
      ∧ (cfg.policy = .substitute → cfg.mode = .latest ∧ cfg.substitute ≠ none) := by
  rw [← substituteAligned_iff, ← depthOk_iff, ← policyOk_iff, ← carryOk_iff]
  simp only [ChannelConfig.fieldsOk, Bool.and_eq_true, decide_eq_true_iff, beq_iff_eq, bne_iff_ne, and_assoc]

theorem overlapsSubstitute_iff {o : ChannelConfig} {base len : Nat} :
    (!o.overlapsSubstitute base len) = true ↔ ∀ b, o.substitute = some b → ¬ share base len b (4 * o.len) := by
  cases hsub : o.substitute with
  | none => simp [ChannelConfig.overlapsSubstitute, hsub]
  | some b =>
    simp only [ChannelConfig.overlapsSubstitute, hsub, rangesOverlap_eq_false_iff, Option.some.injEq,
      forall_eq', ChannelConfig.bytes]

theorem windowPlaced_iff {cfg : ChannelConfig} {e : Surroundings} : windowPlaced cfg e = true ↔
    cfg.windowBase + 4 * cfg.len ≤ 2 ^ 24
      ∧ ¬ share cfg.windowBase (4 * cfg.len) e.bcb 4096
      ∧ (∀ o ∈ e.others, ¬ share cfg.windowBase (4 * cfg.len) o.windowBase (4 * o.len)) := by
  simp only [windowPlaced, Bool.and_eq_true, decide_eq_true_iff, List.all_eq_true, rangesOverlap_eq_false_iff,
    and_assoc]
  exact Iff.rfl

theorem slotsPlaced_iff {cfg : ChannelConfig} {e : Surroundings} : slotsPlaced cfg e = true ↔
    insideOne e.banks cfg.slotBase (4 * cfg.depth * cfg.len)
      ∧ ¬ share cfg.slotBase (4 * cfg.depth * cfg.len) e.bcb 4096
      ∧ (∀ o ∈ e.others, ¬ share cfg.slotBase (4 * cfg.depth * cfg.len) o.slotBase (4 * o.depth * o.len))
      ∧ (∀ b, cfg.substitute = some b → ¬ share cfg.slotBase (4 * cfg.depth * cfg.len) b (4 * cfg.len))
      ∧ (∀ o ∈ e.others, ∀ b, o.substitute = some b →
          ¬ share cfg.slotBase (4 * cfg.depth * cfg.len) b (4 * o.len)) := by
  simp only [slotsPlaced, ChannelConfig.slotBytes, Bool.and_eq_true, List.all_eq_true, rangesOverlap_eq_false_iff,
    inOneBank_iff, overlapsSubstitute_iff, and_assoc]

theorem substitutePlaced_iff {cfg : ChannelConfig} {e : Surroundings} : substitutePlaced cfg e = true ↔
    ∀ b, cfg.substitute = some b →
      insideOne e.banks b (4 * cfg.len) ∧ ¬ share b (4 * cfg.len) e.bcb 4096
        ∧ ∀ o ∈ e.others, ¬ share b (4 * cfg.len) o.slotBase (4 * o.depth * o.len) := by
  cases hsub : cfg.substitute with
  | none => simp [substitutePlaced, hsub]
  | some b =>
    simp only [substitutePlaced, hsub, Option.some.injEq, forall_eq', ChannelConfig.bytes, ChannelConfig.slotBytes,
      Bool.and_eq_true, List.all_eq_true, rangesOverlap_eq_false_iff, inOneBank_iff, and_assoc]

/-! ## Check 9 of an image -/

/-- Check 9 for the entries `named` that name the channel. -/
def namedOk (bytes : List Byte) (img : Image) (c : ChanId) : List EntryWords → Bool
  | [] => true
  | [e] => e.config.accepted ⟨bankRanges (configuredBanks img.banks), img.bcbBase,
      ((imageEntries bytes).filter (fun o => o.number != c.val)).map EntryWords.config⟩
  | _ :: _ :: _ => false

/-- The entries are named before anything is compared. -/
theorem channelOk_of_named {bytes : List Byte} {img : Image} {c : ChanId} {named : List EntryWords}
    (h : (imageEntries bytes).filter (fun e => e.number == c.val) = named) :
    channelOk bytes img c = namedOk bytes img c named := by
  have e : channelOk = channelOk := rfl
  conv at e => rhs; delta channelOk
  rw [e]
  dsimp only
  rw [h]
  match named with
  | [] => rfl
  | [_] => rfl
  | _ :: _ :: _ => rfl

theorem channelOk_of_absent {bytes : List Byte} {c : ChanId} (img : Image)
    (h : ∀ e ∈ imageEntries bytes, e.number ≠ c.val) : channelOk bytes img c = true :=
  channelOk_of_named (List.filter_eq_nil_iff.2 fun e he => by simpa using h e he)

end Sys2Proof.Machine

namespace Sys2Proof.Proofs

open Sys2Proof Sys2Proof.Machine

/-- Settles O57: each check by its own equivalence. -/
theorem configurationChecks : Obligations.ConfigurationChecks := by
  refine ⟨fun bytes => ⟨lengthOk_iff, crcOk_iff, fieldsListed_iff⟩, fun w0 w2 => bankListed_iff,
    fun w0 => regionListed_iff, fun img => ⟨banksOk_iff, bcbOk_iff, regionsOk_iff⟩, fun e => listed_iff,
    fun cfg => ?_, fun cfg e => ?_, fun bytes img c => ⟨channelOk_of_absent img, fun e h => channelOk_of_named h,
      fun e f rest h => channelOk_of_named h⟩⟩
  · rw [fieldsOk_iff]
    cases cfg.mode <;> simp [and_assoc]
  · simp only [ChannelConfig.accepted, Bool.and_eq_true, windowPlaced_iff, slotsPlaced_iff, substitutePlaced_iff,
      and_assoc]

end Sys2Proof.Proofs
end


section
/-! PROOF. The judgement of an image (R171 to R173) and what its words give (12.4, 12.5). -/

namespace Sys2Proof.Machine

open Sys2Proof

/-! ## The checks in their order -/

/-- The judgement as the nine checks in their order, of what each of them finds. -/
def judged (signature format : Prop) [Decidable signature] [Decidable format]
    (length crc fields banks bcb regions : Bool) (failing : Option ChanId) (img : Image) : LoaderPhase :=
  if ¬ signature then .refused .signature 0
  else if ¬ format then .refused .format 0
  else if !length then .refused .length 0
  else if !crc then .refused .crc 0
  else if !fields then .refused .badField 0
  else if !banks then .refused .bankLayout 0
  else if !bcb then .refused .bcbPlacement 0
  else if !regions then .refused .regionRange 0
  else match failing with
    | some c => .refused .channel c
    | none => .accepted img

/-- The two are compared unapplied, before any word of an image is. -/
theorem judge_eq (bytes : List Byte) : judge bytes =
    judged (imageWord bytes 0 = 0x22405A3C) (imageWord bytes 1 = 1) (lengthOk bytes) (crcOk bytes)
      (fieldsListed bytes) (banksOk (imageSettings bytes)) (bcbOk (imageSettings bytes))
      (regionsOk (imageSettings bytes)) (failingChannel bytes (imageSettings bytes)) (imageSettings bytes) := by
  have hjudge : judge = judge := rfl
  conv at hjudge => rhs; delta judge
  have hjudged : @judged = @judged := rfl
  conv at hjudged => rhs; delta judged
  rw [hjudge, hjudged] <;>
    (dsimp only; generalize failingChannel bytes (imageSettings bytes) = failing; cases failing <;> rfl)

/-- A check refuses when it fails and otherwise leaves the judgement to those after it. -/
theorem check_ne_reading {c : Prop} [Decidable c] {o : LoadOutcome} {n : ChanId} {x : LoaderPhase} (h : x ≠ .reading) :
    (if c then .refused o n else x) ≠ LoaderPhase.reading := by
  split
  · exact nofun
  · exact h

theorem check_accepted {c : Prop} [Decidable c] {o : LoadOutcome} {n : ChanId} {x : LoaderPhase} {img : Image}
    (h : (if c then .refused o n else x) = LoaderPhase.accepted img) : ¬c ∧ x = .accepted img := by
  split at h
  · cases h
  · exact ⟨‹¬c›, h⟩

theorem judged_ne_reading {signature format : Prop} [Decidable signature] [Decidable format]
    (length crc fields banks bcb regions : Bool) (failing : Option ChanId) (img : Image) :
    judged signature format length crc fields banks bcb regions failing img ≠ .reading := by
  unfold judged
  iterate 8 refine check_ne_reading ?_
  cases failing <;> exact nofun

/-- Only an image that passes every check is accepted. -/
theorem judged_accepted {signature format : Prop} [Decidable signature] [Decidable format]
    {length crc fields banks bcb regions : Bool} {failing : Option ChanId} {img img' : Image}
    (h : judged signature format length crc fields banks bcb regions failing img = .accepted img') :
    img' = img ∧ fields = true ∧ banks = true ∧ bcb = true ∧ regions = true ∧ failing = none := by
  unfold judged at h
  obtain ⟨-, h⟩ := check_accepted h
  obtain ⟨-, h⟩ := check_accepted h
  obtain ⟨-, h⟩ := check_accepted h
  obtain ⟨-, h⟩ := check_accepted h
  obtain ⟨hfields, h⟩ := check_accepted h
  obtain ⟨hbanks, h⟩ := check_accepted h
  obtain ⟨hbcb, h⟩ := check_accepted h
  obtain ⟨hregions, h⟩ := check_accepted h
  cases failing with
  | some c => cases h
  | none => exact ⟨(LoaderPhase.accepted.inj h).symm, by simpa using hfields, by simpa using hbanks, by simpa using hbcb,
      by simpa using hregions, rfl⟩

/-! ## The lowest failing channel -/

theorem find_chanIds {f : ChanId → Bool} {c : ChanId} (h : f c = true) (hfirst : ∀ d, d < c → f d = false) :
    chanIds.find? f = some c := by
  have hsplit : ∀ c : ChanId, chanIds = chanIds.take c.val ++ c :: chanIds.drop (c.val + 1) := by decide
  have hlt : ∀ c d : ChanId, d ∈ chanIds.take c.val → d < c := by decide
  refine List.find?_eq_some_iff_append.2 ⟨h, _, _, hsplit c, fun d hd => ?_⟩
  rw [hfirst d (hlt c d hd)]
  rfl

theorem failingChannel_eq_some {bytes : List Byte} {img : Image} {c : ChanId} (h : channelOk bytes img c = false)
    (hfirst : ∀ d, d < c → channelOk bytes img d = true) : failingChannel bytes img = some c :=
  find_chanIds (f := fun c => !channelOk bytes img c) (by rw [h]; rfl) fun d hd => by rw [hfirst d hd]; rfl

theorem failingChannel_eq_none {bytes : List Byte} {img : Image} :
    failingChannel bytes img = none ↔ ∀ c, channelOk bytes img c = true := by
  simp only [failingChannel, List.find?_eq_none, mem_chanIds, true_implies, Bool.not_eq_true', Bool.not_eq_false]

/-! ## The words taken -/

theorem wordsClocked_signature {bytes : List Byte} (h : imageWord bytes 0 ≠ 0x22405A3C) : wordsClocked bytes = 1 :=
  if_pos h

theorem wordsClocked_format {bytes : List Byte} (h0 : imageWord bytes 0 = 0x22405A3C) (h : imageWord bytes 1 ≠ 1) :
    wordsClocked bytes = 2 :=
  (if_neg (not_not_intro h0)).trans (if_pos h)

theorem wordsClocked_length {bytes : List Byte} (h0 : imageWord bytes 0 = 0x22405A3C) (h1 : imageWord bytes 1 = 1)
    (h : lengthOk bytes = false) : wordsClocked bytes = 4 :=
  (if_neg (not_not_intro h0)).trans ((if_neg (not_not_intro h1)).trans (if_pos (by rw [h]; rfl)))

theorem wordsClocked_whole {bytes : List Byte} (h0 : imageWord bytes 0 = 0x22405A3C) (h1 : imageWord bytes 1 = 1)
    (h : lengthOk bytes = true) : wordsClocked bytes = 42 + 16 * bitsOf (imageWord bytes 3) 16 8 :=
  (if_neg (not_not_intro h0)).trans ((if_neg (not_not_intro h1)).trans (if_neg (by rw [h]; decide)))

/-! ## The fields of the words -/

theorem bitsOf_lt (w : Word) (lo width : Nat) : bitsOf w lo width < 2 ^ width :=
  Nat.mod_lt _ (Nat.two_pow_pos width)

theorem toNat_ofNat_bitsOf (w : Word) (lo width : Nat) : (BitVec.ofNat width (bitsOf w lo width)).toNat = bitsOf w lo width := by
  rw [BitVec.toNat_ofNat, Nat.mod_eq_of_lt (bitsOf_lt w lo width)]

theorem toNat_wordOfBytes (b0 b1 b2 b3 : Byte) : (wordOfBytes b0 b1 b2 b3).toNat
    = b0.toNat + 256 * b1.toNat + 65536 * b2.toNat + 16777216 * b3.toNat := by
  rw [wordOfBytes, BitVec.toNat_ofNat]
  omega

theorem bitsOf_imageWord (bytes : List Byte) (i : Nat) (k : Fin 4) :
    bitsOf (imageWord bytes i) (8 * k.val) 8 = (bytes.getD (4 * i + k.val) 0xFF).toNat := by
  change _ = (imageByte bytes (4 * i + k.val)).toNat
  have h0 := (imageByte bytes (4 * i)).isLt
  have h1 := (imageByte bytes (4 * i + 1)).isLt
  have h2 := (imageByte bytes (4 * i + 2)).isLt
  rw [bitsOf, imageWord, toNat_wordOfBytes]
  have hk : k.val = 0 ∨ k.val = 1 ∨ k.val = 2 ∨ k.val = 3 := by omega
  rcases hk with hk | hk | hk | hk <;> rw [hk] <;> simp only [Nat.reduceMul, Nat.reducePow, Nat.add_zero] <;> omega

theorem vector_get_ofFn {α : Type} {n : Nat} (f : Fin n → α) (i : Fin n) : (Vector.ofFn f).get i = f i := by
  simp [Vector.get, Fin.cast]

theorem getElem_imageEntries {bytes : List Byte} {i : Nat} (h : i < bitsOf (imageWord bytes 3) 16 8) :
    (imageEntries bytes)[i]? = some (imageEntry bytes i) := by
  rw [imageEntries, List.getElem?_map, channelCount, List.getElem?_range h]
  rfl

theorem bankEntry_of_unconfigured {w0 : Word} (w1 w2 w3 : Word) (h : bitsOf w0 0 2 ≠ 1) :
    bankEntry w0 w1 w2 w3 = none := if_neg h

theorem bankEntry_of_configured {w0 : Word} (w1 w2 w3 : Word) (h : bitsOf w0 0 2 = 1) :
    ∃ cfg, bankEntry w0 w1 w2 w3 = some cfg
      ∧ (cfg.checkCode = true ↔ bitsOf w0 2 2 = 1) ∧ (cfg.initAtStart = true ↔ bitsOf w0 4 2 = 1)
      ∧ cfg.size = 65536 * 2 ^ bitsOf w0 8 4
      ∧ cfg.readWaits.toNat = bitsOf w0 12 4 ∧ cfg.writeWaits.toNat = bitsOf w0 16 4
      ∧ cfg.readyTimeout = (if bitsOf w0 20 2 = 1 then some (bitsOf w0 24 8) else none)
      ∧ cfg.base = bitsOf w1 0 24
      ∧ (bitsOf w2 0 2 = 0 → cfg.retryMode = .off) ∧ (bitsOf w2 0 2 = 1 → cfg.retryMode = .limited)
      ∧ (bitsOf w2 0 2 = 2 → cfg.retryMode = .unlimited)
      ∧ (bitsOf w2 4 2 = 0 → cfg.retryPeriod = 10) ∧ (bitsOf w2 4 2 = 1 → cfg.retryPeriod = 50)
      ∧ (bitsOf w2 4 2 = 2 → cfg.retryPeriod = 200) ∧ (bitsOf w2 4 2 = 3 → cfg.retryPeriod = 1000)
      ∧ cfg.stormThreshold.toNat = bitsOf w2 8 8 ∧ cfg.probeOffset = bitsOf w3 0 21 := by
  refine ⟨_, if_pos h, beq_iff_eq, beq_iff_eq, rfl, toNat_ofNat_bitsOf .., toNat_ofNat_bitsOf .., rfl, rfl, ?_, ?_, ?_,
    ?_, ?_, ?_, ?_, toNat_ofNat_bitsOf .., rfl⟩
  all_goals
    intro hbits
    simp only [decodeRetryMode, decodePeriod, hbits]
    rfl

theorem substitute_config (e : EntryWords) :
    e.config.substitute = (if bitsOf e.w5 31 1 = 1 then some (bitsOf e.w5 0 24) else none) := by
  refine ite_of_iff ?_ rfl rfl
  rw [BitVec.getLsbD, Nat.testBit_eq_decide_div_mod_eq, decide_eq_true_iff]
  exact Iff.rfl

/-! ## The configuration port -/

theorem exec_imageReadEnd_of_reading {s : State} {bytes : List Byte} (hpin : s.pinAsserted = false)
    (hdev : s.device = .loading) (hphase : s.loader.phase = .reading) :
    exec (.imageReadEnd bytes) s = .next (settle s
      { s with loader := { s.loader with phase := judge bytes, wordsRead := wordsClocked bytes } }) :=
  next_event_of_some hpin (if_pos ⟨hdev, hphase⟩)

theorem configSelect_iff {s : State} :
    s.configSelect = true ↔ s.pinAsserted = false ∧ s.device = .loading ∧ s.loader.phase = .reading := by
  simp only [State.configSelect, Bool.and_eq_true, Bool.not_eq_true', beq_iff_eq, and_assoc]

end Sys2Proof.Machine

namespace Sys2Proof.Proofs

open Sys2Proof Sys2Proof.Machine

/-- Settles O58: the judgement through `judged`, the words through their fields. -/
theorem imageJudged : Obligations.ImageJudged := by
  refine ⟨fun s bytes hpin hdev hphase => exec_imageReadEnd_of_reading hpin hdev hphase,
    fun s => ⟨rfl, configSelect_iff⟩, fun bytes => ?reading, ?crcVector, ?absent, wordsClocked_signature ?high,
    fun bytes h0 => ?signature, fun bytes h0 h1 => ?format, fun bytes h0 h1 h2 => ?length,
    fun bytes h0 h1 h2 h3 => ?crc, fun bytes img h0 h1 h2 h3 himg => ⟨fun h4 => ?fields, fun h4 h5 => ?banks,
      fun h4 h5 h6 => ?bcb, fun h4 h5 h6 h7 => ?regions, fun h4 h5 h6 h7 => ⟨fun c hc hfirst => ?channel,
        fun hall => ?accepted⟩⟩, fun bytes img h => ?only, fun bytes => ?settings,
    fun bytes => ⟨wordsClocked_signature, wordsClocked_format, wordsClocked_length, wordsClocked_whole⟩,
    bitsOf_imageWord, fun bytes => ⟨by simp [imageEntries, channelCount], fun i hi => getElem_imageEntries hi⟩,
    fun w0 w1 w2 w3 => ⟨bankEntry_of_unconfigured w1 w2 w3, bankEntry_of_configured w1 w2 w3⟩,
    fun w0 w1 => ⟨beq_iff_eq, toNat_ofNat_bitsOf .., toNat_ofNat_bitsOf .., rfl⟩, rfl, rfl, rfl,
    fun e => ⟨rfl, rfl, rfl, rfl, rfl, beq_iff_eq, rfl, beq_iff_eq, rfl, rfl, rfl, rfl, substitute_config e⟩⟩
  case reading => rw [judge_eq]; apply judged_ne_reading
  case crcVector => decide +kernel
  case high => decide +kernel
  case absent =>
    have hsig : imageWord [] 0 ≠ 0x22405A3C := by decide +kernel
    rw [judge_eq]
    exact if_pos hsig
  case signature => simp only [judge_eq, judged, h0, not_false_eq_true, if_true]
  case format => simp only [judge_eq, judged, h0, h1, not_true, not_false_eq_true, if_true, if_false]
  case length =>
    simp only [judge_eq, judged, h0, h1, h2, not_true, Bool.not_false, if_true, if_false]
  case crc =>
    simp only [judge_eq, judged, h0, h1, h2, h3, not_true, Bool.not_false, Bool.not_true, Bool.false_eq_true, if_true, if_false]
  case fields =>
    subst himg
    simp only [judge_eq, judged, h0, h1, h2, h3, h4, not_true, Bool.not_false, Bool.not_true, Bool.false_eq_true, if_true,
      if_false]
  case banks =>
    subst himg
    simp only [judge_eq, judged, h0, h1, h2, h3, h4, h5, not_true, Bool.not_false, Bool.not_true, Bool.false_eq_true,
      if_true, if_false]
  case bcb =>
    subst himg
    simp only [judge_eq, judged, h0, h1, h2, h3, h4, h5, h6, not_true, Bool.not_false, Bool.not_true,
      Bool.false_eq_true, if_true, if_false]
  case regions =>
    subst himg
    simp only [judge_eq, judged, h0, h1, h2, h3, h4, h5, h6, h7, not_true, Bool.not_false, Bool.not_true,
      Bool.false_eq_true, if_true, if_false]
  case channel =>
    subst himg
    simp only [judge_eq, judged, h0, h1, h2, h3, h4, h5, h6, h7, failingChannel_eq_some hc hfirst, not_true,
      Bool.not_true, Bool.false_eq_true, if_false]
  case accepted =>
    subst himg
    simp only [judge_eq, judged, h0, h1, h2, h3, h4, h5, h6, h7, failingChannel_eq_none.2 hall, not_true,
      Bool.not_true, Bool.false_eq_true, if_false]
  case only =>
    rw [judge_eq] at h
    obtain ⟨rfl, hfields, hbanks, hbcb, hregions, hfailing⟩ := judged_accepted h
    exact ⟨rfl, hfields, hbanks, hbcb, hregions, failingChannel_eq_none.1 hfailing⟩
  case settings =>
    exact ⟨rfl, rfl, rfl, rfl, rfl, beq_iff_eq, fun b => vector_get_ofFn _ b, fun r => vector_get_ofFn _ r,
      fun c => vector_get_ofFn _ c⟩

end Sys2Proof.Proofs
end


section
/-! PROOF. An initialization write ends (R127, R174): the next word, the next bank, or the end of LOADING. -/

namespace Sys2Proof.Machine

open Sys2Proof

/-! ## The next bank to be initialized -/

theorem find_bankIds {f : BankId → Bool} {b : BankId} (h : f b = true) (hfirst : ∀ d, d < b → f d = false) :
    bankIds.find? f = some b := by
  have hsplit : ∀ b : BankId, bankIds = bankIds.take b.val ++ b :: bankIds.drop (b.val + 1) := by decide
  have hlt : ∀ b d : BankId, d ∈ bankIds.take b.val → d < b := by decide
  refine List.find?_eq_some_iff_append.2 ⟨h, _, _, hsplit b, fun d hd => ?_⟩
  rw [hfirst d (hlt b d hd)]
  rfl

theorem needsInit_of_config {s : State} {b : BankId} {cfg : BankConfig} (h : (s.bank b).config = some cfg) :
    s.needsInit b = cfg.initAtStart := by
  simp only [State.needsInit, h]

theorem needsInit_eq_false {s : State} {b : BankId}
    (h : ∀ cfg, (s.bank b).config = some cfg → cfg.initAtStart = false) : s.needsInit b = false := by
  cases hcfg : (s.bank b).config with
  | none => simp only [State.needsInit, hcfg]
  | some cfg => rw [needsInit_of_config hcfg, h cfg hcfg]

/-- The lowest bank from number `n` on that is to be initialized. -/
theorem initFrom_of_next {s : State} {n : Nat} {d : BankId} {cfg : BankConfig} (hn : n ≤ d.val)
    (hcfg : (s.bank d).config = some cfg) (hinit : cfg.initAtStart = true)
    (hfirst : ∀ e : BankId, n ≤ e.val → e < d → ∀ x, (s.bank e).config = some x → x.initAtStart = false) :
    initFrom n s = startInit d cfg.base s := by
  have hfind : bankIds.find? (fun b => decide (n ≤ b.val) && s.needsInit b) = some d := by
    refine find_bankIds ?_ fun e he => ?_
    · rw [needsInit_of_config hcfg, hinit, decide_eq_true hn]
      rfl
    · by_cases hle : n ≤ e.val
      · rw [needsInit_eq_false (hfirst e hle he), Bool.and_false]
      · rw [decide_eq_false hle, Bool.false_and]
  simp only [initFrom, hfind, State.bankBase, hcfg]

theorem initFrom_of_none {s : State} {n : Nat}
    (h : ∀ e : BankId, n ≤ e.val → ∀ x, (s.bank e).config = some x → x.initAtStart = false) :
    initFrom n s = endLoading .run .ok 0 s := by
  have hfind : bankIds.find? (fun b => decide (n ≤ b.val) && s.needsInit b) = none := by
    refine List.find?_eq_none.2 fun e _ => ?_
    by_cases hle : n ≤ e.val
    · rw [needsInit_eq_false (h e hle), Bool.and_false]
      decide
    · rw [decide_eq_false hle, Bool.false_and]
      decide
  simp only [initFrom, hfind]

/-! ## The step -/

theorem exec_initWriteEnd_of_busy {s t : State} {b : BankId} {addr n : Nat} (hpin : s.pinAsserted = false)
    (hdev : s.device = .loading) (hbusy : s.arbiter.busy = some ⟨.initWrite b addr, n⟩)
    (ht : afterInit b addr (storeWord b addr 0 (s.setBusy none)) = t) :
    exec .initWriteEnd s = .next (settle s t) := by
  refine next_event_of_some hpin ?_
  simp only [initWriteEnd, hdev, hbusy, if_true, ht]

theorem exec_initWriteEnd_timedOut {s t : State} {b : BankId} (hpin : s.pinAsserted = false)
    (hdev : s.device = .loading) (hbusy : s.arbiter.busy = none) (hphase : s.loader.phase = .initTimedOut b)
    (ht : initFrom (b.val + 1) s = t) : exec .initWriteEnd s = .next (settle s t) := by
  refine next_event_of_some hpin ?_
  simp only [initWriteEnd, hdev, hbusy, hphase, if_true, ht]

theorem exec_readyTimeout_initWrite {s : State} {b : BankId} {addr n : Nat} (hpin : s.pinAsserted = false)
    (hbusy : s.arbiter.busy = some ⟨.initWrite b addr, n⟩) (hdue : s.readyDue b [] n = true) :
    exec (.readyTimeout []) s = .next (settle s
      { s with
        arbiter := { s.arbiter with busy := none }
        loader := { s.loader with phase := .initTimedOut b, heldTimeouts := s.loader.heldTimeouts ++ [b] } }) := by
  refine next_event_of_some hpin ?_
  simp only [readyTimeout, hbusy, busyBank, hdue, if_true]
  rfl

theorem afterInit_nextWord {s : State} {b : BankId} {addr : Nat} (h : (s.bank b).lastWord addr = false) :
    afterInit b addr s = startInit b (addr + 4) s := if_neg (by rw [h]; decide)

theorem afterInit_lastWord {s : State} {b : BankId} {addr : Nat} (h : (s.bank b).lastWord addr = true) :
    afterInit b addr s = initFrom (b.val + 1) s := if_pos h

/-! ## The word written -/

theorem classAt_storeWord {s : State} {b : BankId} {addr : Nat} {v : Word} (hwf : memoryCanonical s)
    (hp : s.isProtected b = true) : (storeWord b addr v s).classAt addr = .clean := by
  have hlane : cellRead (storeWord b addr v s).lanes addr = goodCode v := by
    simp only [storeWord, hp, if_true, cellRead_cellWrite_same hwf.2]
  have hword : wordRead (storeWord b addr v s).ram addr = v := wordRead_wordWrite_same hwf.1
  rw [State.classAt, hlane, hword]
  exact checkClass_of_zero (BitVec.xor_self)

end Sys2Proof.Machine

namespace Sys2Proof.Proofs

open Sys2Proof Sys2Proof.Machine

/-- Settles O60: what comes after a word by `afterInit`, what comes after a bank by `initFrom`. -/
theorem initializationWriteEnds : Obligations.InitializationWriteEnds := by
  refine ⟨fun s b addr n hpin hdev hbusy => ⟨fun hlast => ?_, fun d cfg hlast hbd hcfg hinit hfirst => ?_,
    fun hlast hnone => ?_⟩, fun s b addr hwf => ⟨wordRead_wordWrite_same hwf.1, classAt_storeWord hwf,
      fun x hx => cellRead_wordWrite_outside hx⟩, fun s b addr n hbusy hpin hdue =>
    exec_readyTimeout_initWrite hpin hbusy hdue, fun s b hpin hdev hbusy hphase =>
    ⟨fun d cfg hbd hcfg hinit hfirst => ?_, fun hnone => ?_⟩⟩
  · exact exec_initWriteEnd_of_busy hpin hdev hbusy (afterInit_nextWord (s := storeWord b addr 0 (s.setBusy none)) hlast)
  · exact exec_initWriteEnd_of_busy hpin hdev hbusy
      ((afterInit_lastWord (s := storeWord b addr 0 (s.setBusy none)) hlast).trans
        (initFrom_of_next (s := storeWord b addr 0 (s.setBusy none)) hbd hcfg hinit
          fun e hle he x hx => hfirst e x hle he hx))
  · exact exec_initWriteEnd_of_busy hpin hdev hbusy
      ((afterInit_lastWord (s := storeWord b addr 0 (s.setBusy none)) hlast).trans
        (initFrom_of_none (s := storeWord b addr 0 (s.setBusy none)) fun e hle x hx => hnone e x hle hx))
  · exact exec_initWriteEnd_timedOut hpin hdev hbusy hphase
      (initFrom_of_next hbd hcfg hinit fun e hle he x hx => hfirst e x hle he hx)
  · exact exec_initWriteEnd_timedOut hpin hdev hbusy hphase (initFrom_of_none fun e hle x hx => hnone e x hle hx)

end Sys2Proof.Proofs
end


section
/-! PROOF. The end of LOADING (R174, R175): the state before the held accesses are taken, its flags and its command
records, and what the settings of an image and of the fallback map give. -/

namespace Sys2Proof.Machine

open Sys2Proof

/-! ## The dirty set with every offset in it -/

theorem insertOffset_of_mem {k : Nat} : ∀ {l : List Nat}, ascending l → k ∈ l → insertOffset k l = l
  | x :: xs, ⟨hx, hxs⟩, hk => by
    rcases List.mem_cons.1 hk with rfl | hmem
    · rw [insertOffset, if_neg (Nat.lt_irrefl k), if_pos rfl]
    · have hlt := hx k hmem
      rw [insertOffset, if_neg (by omega), if_neg (by omega), insertOffset_of_mem hxs hmem]

theorem foldl_insertOffset_of_mem {l : List Nat} (hl : ascending l) :
    ∀ ks : List Nat, (∀ k ∈ ks, k ∈ l) → ks.foldl (fun d off => insertOffset off d) l = l
  | [], _ => rfl
  | k :: ks, h => by
    rw [List.foldl_cons, insertOffset_of_mem hl (h k List.mem_cons_self)]
    exact foldl_insertOffset_of_mem hl ks fun j hj => h j (List.mem_cons_of_mem k hj)

theorem mem_changedOffsets_lt {s t : State} {off : Nat} (h : off ∈ changedOffsets s t) : off < 1024 := by
  have hmem : off ∈ mirroredOffsets := (List.mem_filter.1 h).1
  simp only [mirroredOffsets, List.mem_append, List.mem_cons, List.not_mem_nil, or_false, List.mem_range'_1] at hmem
  omega

theorem foldl_changedOffsets (s t : State) {l : List Nat} (h : l = List.range 1024) :
    (changedOffsets s t).foldl (fun d off => insertOffset off d) l = l := by
  have hall : l = allOffsets := by rw [h, allOffsets]
  refine foldl_insertOffset_of_mem (ascending_of_eq_allOffsets hall) _ fun k hk => ?_
  rw [h]
  exact List.mem_range.2 (mem_changedOffsets_lt hk)

/-- With every offset due, a step marks none that was not. -/
theorem mirror_settle_full {s t : State} {l : List Nat} (hdev : t.device ≠ .loading) (hl : l = List.range 1024)
    (h : t.mirror = ⟨l, 1023, .none⟩) : (settle s t).mirror = ⟨l, 1023, .none⟩ := by
  simp only [settle, if_neg hdev, h, foldl_changedOffsets s t hl]

/-! ## Flags raised -/

theorem globalStage_raiseGlobal_ite (l m : Port) (f : GlobalFlag) (n : Fin 9) (s : State) :
    (raiseGlobal l f s).globalStage m n =
      if (m = l ∧ n = f.bit) ∧ s.globalStage m n = .clear then .pending else s.globalStage m n := by
  by_cases hmn : m = l ∧ n = f.bit
  · obtain ⟨rfl, rfl⟩ := hmn
    by_cases hclear : s.globalStage m f.bit = .clear
    · rw [globalStage_raiseGlobal hclear, if_pos ⟨⟨rfl, rfl⟩, hclear⟩]
    · rw [raiseGlobal, if_neg hclear, if_neg fun h => hclear h.2]
  · rw [if_neg fun h => hmn h.1, raiseGlobal]
    split
    · refine globalStage_setGlobalStage_ne s _ ?_
      exact Decidable.not_and_iff_or_not.1 hmn
    · rfl

theorem globalStage_raiseBoth_ite (m : Port) (f : GlobalFlag) (n : Fin 9) (s : State) :
    (raiseBoth f s).globalStage m n =
      if n = f.bit ∧ s.globalStage m n = .clear then .pending else s.globalStage m n := by
  rw [raiseBoth, globalStage_raiseGlobal_ite, globalStage_raiseGlobal_ite]
  cases m <;> by_cases hn : n = f.bit <;> simp [hn]

/-! ## The issuer of a RELOAD -/

theorem reloadIssuer_eq_some {s : State} {p : Port} {w : Word} (h : reloadIssuer s = some (p, w)) :
    (s.command p).state = .executing w := by
  unfold reloadIssuer at h
  split at h
  · rename_i h0
    cases h
    exact h0
  · rename_i h1 _
    cases h
    exact h1
  · cases h

theorem reloadIssuer_eq_none {s : State} (h : ∀ p w, (s.command p).state ≠ .executing w) : reloadIssuer s = none := by
  cases hissuer : reloadIssuer s with
  | none => rfl
  | some x => exact absurd (reloadIssuer_eq_some hissuer) (h x.1 x.2)

theorem reloadIssuer_of_executing {s : State} {p : Port} {w : Word} (h : (s.command p).state = .executing w)
    (hother : ∀ v, (s.command (otherPort p)).state ≠ .executing v) : reloadIssuer s = some (p, w) := by
  cases p with
  | port0 =>
    have h0 : s.commands.first.state = .executing w := h
    simp only [reloadIssuer, h0]
  | port1 =>
    have h1 : s.commands.second.state = .executing w := h
    have h0 : ∀ v, s.commands.first.state ≠ .executing v := hother
    unfold reloadIssuer
    split
    · rename_i h0'
      exact absurd h0' (h0 _)
    · rename_i h1' _
      cases h1.symm.trans h1'
      rfl
    · rename_i h1'
      exact absurd h1 (h1' w)

/-! ## The state at the end of LOADING -/

/-- The part as LOADING ends, before the TIMEOUTs of initialization writes and the held accesses are taken. -/
def loadedState (dev : Device) (why : LoadOutcome) (c : ChanId) (s : State) : State :=
  raiseFallback dev (raiseIssuer (reloadIssuer s) (freshBlocks dev why c s))

theorem raiseIssuer_touches (issuer : Option (Port × Word)) (s : State) :
    ∃ g, raiseIssuer issuer s = { s with globalFlags := g } := by
  cases issuer with
  | none => exact ⟨s.globalFlags, rfl⟩
  | some x => exact raiseGlobal_touches x.1 .cmdDone s

theorem raiseFallback_touches (dev : Device) (s : State) : ∃ g, raiseFallback dev s = { s with globalFlags := g } := by
  cases dev with
  | fallback => exact raiseBoth_touches .configFallback s
  | _ => exact ⟨s.globalFlags, rfl⟩

theorem loadedState_touches (dev : Device) (why : LoadOutcome) (c : ChanId) (s : State) :
    ∃ g, loadedState dev why c s = { freshBlocks dev why c s with globalFlags := g } := by
  obtain ⟨g, hg⟩ := raiseIssuer_touches (reloadIssuer s) (freshBlocks dev why c s)
  obtain ⟨g', hg'⟩ := raiseFallback_touches dev (raiseIssuer (reloadIssuer s) (freshBlocks dev why c s))
  exact ⟨g', by rw [loadedState, hg', hg]⟩

theorem globalStage_freshBlocks (dev : Device) (why : LoadOutcome) (c : ChanId) (s : State) (l : Port) (n : Fin 9) :
    (freshBlocks dev why c s).globalStage l n = .clear := by
  cases l <;> exact vector_get_replicate Stage.clear n

theorem channelStage_freshBlocks (dev : Device) (why : LoadOutcome) (c d : ChanId) (s : State) (n : Fin 7) :
    (freshBlocks dev why c s).channelStage d n = .clear := by
  have hrow : (freshBlocks dev why c s).channelFlags.get d = Vector.replicate 7 .clear := vector_get_replicate _ d
  rw [State.channelStage, hrow, vector_get_replicate]

/-- CMD_DONE to the issuer of a RELOAD, and nothing else. -/
theorem globalStage_raiseIssuer (dev : Device) (why : LoadOutcome) (c : ChanId) (s : State) (l : Port) (n : Fin 9) :
    (raiseIssuer (reloadIssuer s) (freshBlocks dev why c s)).globalStage l n =
      if (reloadIssuer s).map Prod.fst = some l ∧ n = GlobalFlag.cmdDone.bit then .pending else .clear := by
  have hclear := globalStage_freshBlocks dev why c s l n
  cases reloadIssuer s with
  | none => exact hclear
  | some x =>
    refine (globalStage_raiseGlobal_ite x.1 l .cmdDone n _).trans ?_
    rw [hclear]
    refine ite_of_iff ?_ rfl rfl
    simp only [and_true, Option.map_some, Option.some.injEq, eq_comm]

theorem globalStage_loadedState (dev : Device) (why : LoadOutcome) (c : ChanId) (s : State) (l : Port) (n : Fin 9) :
    (loadedState dev why c s).globalStage l n =
      if (n = GlobalFlag.configFallback.bit ∧ dev = .fallback)
        ∨ ((reloadIssuer s).map Prod.fst = some l ∧ n = GlobalFlag.cmdDone.bit) then .pending else .clear := by
  have hissuer := globalStage_raiseIssuer dev why c s l n
  cases dev with
  | fallback =>
    refine (globalStage_raiseBoth_ite l .configFallback n _).trans ?_
    rw [hissuer]
    by_cases hn : n = GlobalFlag.configFallback.bit
    · simp [hn]
    · simp [hn]
  | run => exact hissuer.trans (by simp)
  | loading => exact hissuer.trans (by simp)

theorem command_freshBlocks (dev : Device) (why : LoadOutcome) (c : ChanId) (s : State) (p : Port) :
    (freshBlocks dev why c s).command p = freshCommand (reloadIssuer s) p := by
  cases p <;> rfl

theorem startChannel_eq (s : State) (ch : Channel) :
    startChannel s ch = if ch.config.enableAtStart = true then liveRecord ch (s.slotBankUp ch.config) else ch := rfl

theorem chan_freshBlocks (dev : Device) (why : LoadOutcome) (c d : ChanId) (s : State) :
    (freshBlocks dev why c s).chan d = (s.chan d).map (startChannel s) :=
  vector_get_map _ s.channels d

theorem startScrub_state (s : State) : (startScrub s).state =
    (if s.loader.scrubAutoStart = true then .running (if s.eligibleFrom 0 = none then .noBank else .requesting)
    else .stopped) := by
  unfold startScrub
  split
  · exact congrArg ScrubState.running (ite_of_iff Option.isNone_iff_eq_none rfl rfl)
  · rfl

theorem startScrub_fields (s : State) : (startScrub s).position = s.eligibleFrom 0
    ∧ (startScrub s).interval = s.scrub.interval ∧ (startScrub s).passes = 0 := by
  unfold startScrub
  split <;> exact ⟨rfl, rfl, rfl⟩

/-- A command record at the end of LOADING, with the flag of its line, by the issuer. -/
theorem loadedState_commands {dev : Device} {why : LoadOutcome} {c : ChanId} {s : State} {issuer : Option (Port × Word)}
    (h : reloadIssuer s = issuer) (p : Port) :
    (loadedState dev why c s).command p = freshCommand issuer p
      ∧ (loadedState dev why c s).globalStage p GlobalFlag.cmdDone.bit
        = if issuer.map Prod.fst = some p then .pending else .clear := by
  obtain ⟨g, hg⟩ := loadedState_touches dev why c s
  refine ⟨?_, ?_⟩
  · rw [hg]
    exact (command_freshBlocks dev why c s p).trans (by rw [h])
  · have hne : GlobalFlag.cmdDone.bit ≠ GlobalFlag.configFallback.bit := by decide
    rw [globalStage_loadedState, h]
    refine ite_of_iff ?_ rfl rfl
    simp [hne]

theorem otherPort_ne_self (p : Port) : p ≠ otherPort p := by cases p <;> decide

theorem loadingEnded_loadedState (dev : Device) (why : LoadOutcome) (c : ChanId) (s : State) :
    loadingEnded dev why c s (loadedState dev why c s) := by
  obtain ⟨g, hg⟩ := loadedState_touches dev why c s
  have hscrub : (loadedState dev why c s).scrub = startScrub s := by rw [hg]; rfl
  have hchan : ∀ d, (loadedState dev why c s).chan d = (s.chan d).map (startChannel s) := fun d => by
    rw [hg]
    exact chan_freshBlocks dev why c d s
  obtain ⟨hposition, hinterval, hpasses⟩ := startScrub_fields s
  refine ⟨?device, ?outcome, ?channel, ?clock, ?arbiter, fun p => ?port, ?regions, ?access, ?bcb, ?banks,
    fun d ch hd => ?some, fun d hd => ?none, by rw [hscrub, hposition], by rw [hscrub, hinterval],
    by rw [hscrub, hpasses], by rw [hscrub, startScrub_state], ?mirror, ?ram, ?lanes, ?ecc, ?capture, ?copy, ?timeouts,
    ?storms, ?gmask, ?cmask, fun p k => ?staging, fun d n => ?cstage, fun l n hn => ?gstage, fun h p => ?idle,
    fun p w h hother => ?issuer⟩
  case port =>
    rw [hg]
    cases p <;> exact ⟨rfl, rfl, rfl, rfl, rfl⟩
  case some => rw [hchan, hd, Option.map_some, startChannel_eq]
  case none => rw [hchan, hd, Option.map_none]
  case mirror => rw [hg, ← allOffsets]; rfl
  case staging =>
    rw [hg]
    cases p <;> exact vector_get_replicate 0 k
  case cstage =>
    rw [hg]
    exact channelStage_freshBlocks dev why c d s n
  case gstage =>
    rw [globalStage_loadedState]
    exact ite_of_iff (or_iff_left fun h => hn h.2) rfl rfl
  case idle =>
    obtain ⟨hcommand, hstage⟩ := loadedState_commands (dev := dev) (why := why) (c := c) (reloadIssuer_eq_none h) p
    exact ⟨hcommand, hstage⟩
  case issuer =>
    have hissuer := reloadIssuer_of_executing h hother
    obtain ⟨hcommand, hstage⟩ := loadedState_commands (dev := dev) (why := why) (c := c) hissuer p
    obtain ⟨hcommand', hstage'⟩ := loadedState_commands (dev := dev) (why := why) (c := c) hissuer (otherPort p)
    refine ⟨hcommand.trans (if_pos rfl), hstage.trans (if_pos rfl), hcommand'.trans (if_neg (otherPort_ne_self p)),
      hstage'.trans (if_neg fun e => otherPort_ne_self p (Option.some.inj e))⟩
  all_goals
    rw [hg]
    rfl

/-! ## What follows it -/

theorem finishHandover_of_still {s : State} {p : Port} (h : (s.port p).phase = .idle ∨ ∃ a, (s.port p).phase = .held a) :
    finishHandover p s = s := by
  rcases h with h | ⟨a, h⟩ <;> simp only [finishHandover, h]

theorem endLoading_of_still {s : State} (dev : Device) (why : LoadOutcome) (c : ChanId)
    (h : ∀ p, (s.port p).phase = .idle ∨ ∃ a, (s.port p).phase = .held a) :
    endLoading dev why c s
      = admitHeld .port1 (admitHeld .port0 (takeHeldTimeouts s.loader.heldTimeouts (loadedState dev why c s))) := by
  rw [endLoading, finishHandover_of_still (h .port0), finishHandover_of_still (h .port1)]
  rfl

theorem admitHeld_of_idle {s : State} {p : Port} (h : (s.port p).phase = .idle) : admitHeld p s = s := by
  simp only [admitHeld, h]

/-- With no access held and no TIMEOUT noted nothing follows. -/
theorem endLoading_of_quiet {s : State} (dev : Device) (why : LoadOutcome) (c : ChanId)
    (hheld : s.loader.heldTimeouts = []) (h : ∀ p, (s.port p).phase = .idle) :
    endLoading dev why c s = loadedState dev why c s := by
  obtain ⟨-, -, -, -, -, hports, -⟩ := loadingEnded_loadedState dev why c s
  have hidle : ∀ p, ((loadedState dev why c s).port p).phase = .idle := fun p => by
    obtain ⟨-, hphase, -⟩ := hports p
    exact hphase.trans (h p)
  rw [endLoading_of_still dev why c fun p => .inl (h p), hheld]
  change admitHeld .port1 (admitHeld .port0 (loadedState dev why c s)) = _
  rw [admitHeld_of_idle (hidle .port0), admitHeld_of_idle (hidle .port1)]

theorem admitHeld_of_held {s : State} {p : Port} {a : Access} (h : (s.port p).phase = .held a)
    (hlock : s.arbiter.lock = none) :
    admitHeld p s = if formOk a = true then handOn p a (decode p a s) s else answerFault p a .form s := by
  simp only [admitHeld, h, admitAccess, hlock, admitPlain]

theorem timeoutFault_off {s : State} {b : BankId} {cfg : BankConfig} (hs : (s.bank b).service = .inService)
    (hcfg : (s.bank b).config = some cfg) (hmode : cfg.retryMode = .off) :
    timeoutFault b s = departFenced b .timeout s := by
  simp only [timeoutFault, State.inService, hs, beq_self_eq_true, if_true, hcfg, hmode]

theorem timeoutFault_retry {s : State} {b : BankId} {cfg : BankConfig} (hs : (s.bank b).service = .inService)
    (hcfg : (s.bank b).config = some cfg) (hmode : cfg.retryMode ≠ .off) :
    timeoutFault b s = departRetry b cfg.retryPeriod s := by
  cases hm : cfg.retryMode with
  | off => exact absurd hm hmode
  | _ => simp only [timeoutFault, State.inService, hs, beq_self_eq_true, if_true, hcfg, hm]

theorem timeoutFault_out {s : State} {b : BankId} (hs : (s.bank b).service ≠ .inService) : timeoutFault b s = s :=
  if_neg fun h => hs (beq_iff_eq.1 h)

/-! ## The settings -/

theorem bank_applySettings (img : Image) (s : State) (b : BankId) :
    (applySettings img s).bank b = freshBank (img.banks.get b) := vector_get_map freshBank img.banks b

theorem chan_applySettings (img : Image) (s : State) (c : ChanId) :
    (applySettings img s).chan c = (img.channels.get c).map (fun x => Channel.loaded x true) :=
  vector_get_map _ img.channels c

theorem port_applySettings (img : Image) (s : State) (p : Port) :
    (applySettings img s).port p = { s.port p with holdLimit := img.holdLimits.get p } := by
  cases p <;> rfl

theorem channelStage_applySettings (img : Image) (s : State) (c : ChanId) (n : Fin 7) :
    (applySettings img s).channelStage c n = .clear := by
  have hrow : (applySettings img s).channelFlags.get c = Vector.replicate 7 .clear := vector_get_replicate _ c
  rw [State.channelStage, hrow, vector_get_replicate]

theorem exec_applyImage_of_accepted {s t : State} {img : Image} (hpin : s.pinAsserted = false)
    (hdev : s.device = .loading) (hphase : s.loader.phase = .accepted img) (hbusy : s.arbiter.busy = none)
    (ht : initFrom 0 (applySettings img s) = t) : exec .applyImage s = .next (settle s t) := by
  refine next_event_of_some hpin ?_
  simp only [applyImage, hphase, hdev, hbusy, and_self, if_true, ht]

theorem exec_fallbackApply_of_refused {s t : State} {why : LoadOutcome} {c : ChanId} (hpin : s.pinAsserted = false)
    (hdev : s.device = .loading) (hphase : s.loader.phase = .refused why c) (hbusy : s.arbiter.busy = none)
    (ht : endLoading .fallback why c (applySettings fallbackImage s) = t) :
    exec .fallbackApply s = .next (settle s t) := by
  refine next_event_of_some hpin ?_
  simp only [fallbackApply, hphase, hdev, hbusy, and_self, if_true, ht]

/-- The banks of an image as `initFrom` asks them. -/
theorem config_applySettings {img : Image} {s : State} {b : BankId} {cfg : BankConfig}
    (h : ((applySettings img s).bank b).config = some cfg) : img.banks.get b = some cfg := by
  rw [bank_applySettings] at h
  exact h

theorem initFrom_applySettings_none {img : Image} {s : State}
    (h : ∀ b cfg, img.banks.get b = some cfg → cfg.initAtStart = false) :
    initFrom 0 (applySettings img s) = endLoading .run .ok 0 (applySettings img s) :=
  initFrom_of_none fun e _ x hx => h e x (config_applySettings hx)

/-! ## The fallback map -/

theorem fallbackImage_banks : ∀ b : BankId, b ≠ 0 → fallbackImage.banks.get b = none := by decide

theorem eligibleFrom_fallback (s : State) : (applySettings fallbackImage s).eligibleFrom 0 = none := by
  refine eligibleFrom_eq_none_iff.2 fun d hd => ?_
  obtain ⟨cfg, hcfg, hcheck, -⟩ := eligible_iff.1 hd
  have hget := config_applySettings hcfg
  have hplain : ∀ b : BankId, ∀ x, fallbackImage.banks.get b = some x → x.checkCode = false := by
    intro b x hx
    by_cases hb : b = 0
    · subst hb
      cases hx
      rfl
    · rw [fallbackImage_banks b hb] at hx
      cases hx
  rw [hplain d cfg hget] at hcheck
  cases hcheck

theorem scrub_fallback (s : State) :
    startScrub (applySettings fallbackImage s) = ⟨.stopped, none, 0, .stopped, 0, none⟩ := by
  have hauto : (applySettings fallbackImage s).loader.scrubAutoStart = false := rfl
  simp only [startScrub, hauto, Bool.false_eq_true, if_false, eligibleFrom_fallback]
  rfl

theorem scrub_loadedState_fallback (why : LoadOutcome) (c : ChanId) (s : State) :
    (loadedState .fallback why c (applySettings fallbackImage s)).scrub = ⟨.stopped, none, 0, .stopped, 0, none⟩ := by
  obtain ⟨g, hg⟩ := loadedState_touches .fallback why c (applySettings fallbackImage s)
  rw [hg]
  exact scrub_fallback s

end Sys2Proof.Machine

namespace Sys2Proof.Proofs

open Sys2Proof Sys2Proof.Machine

/-- Settles O59: the end of LOADING through `loadedState`, the settings through `applySettings`. -/
theorem loadingEnds : Obligations.LoadingEnds := by
  refine ⟨fun s why c hpin hdev hphase hheld hbusy hidle => ?fallback,
    fun s img hpin hdev hphase hheld hbusy hidle hinit => ?accepted,
    fun s img hpin hdev hphase hbusy => ⟨fun hinit => ?none, fun b cfg hcfg hinit hfirst => ?some⟩,
    fun dev why c s hstill => ⟨loadedState dev why c s, loadingEnded_loadedState dev why c s,
      endLoading_of_still dev why c hstill⟩,
    fun s => ⟨rfl, fun b bs => rfl, fun b cfg hs hcfg => ⟨timeoutFault_off hs hcfg, timeoutFault_retry hs hcfg⟩,
      fun p => admitHeld_of_idle, fun p a => admitHeld_of_held⟩⟩
  case fallback =>
    have hports : ∀ p, ((applySettings fallbackImage s).port p).phase = .idle := fun p => by
      rw [port_applySettings]
      exact hidle p
    have hquiet : endLoading .fallback why c (applySettings fallbackImage s)
        = loadedState .fallback why c (applySettings fallbackImage s) := endLoading_of_quiet _ _ _ hheld hports
    have hscrub := scrub_loadedState_fallback why c s
    have hended := loadingEnded_loadedState .fallback why c (applySettings fallbackImage s)
    generalize loadedState .fallback why c (applySettings fallbackImage s) = u at hquiet hscrub hended
    obtain ⟨hdev', hwhy, hchannel, hclock, -, hport, hregions, haccess, hbcb, hbanks, -, hnone, -, -, -, -, hmirror,
      hram, hlanes, -, -, -, -, -, -, -, -, -, hstage, -, -⟩ := hended
    have hbank : ∀ b, u.bank b = freshBank (fallbackImage.banks.get b) := fun b =>
      (bank_of_banks hbanks b).trans (bank_applySettings ..)
    refine ⟨settle s u, exec_fallbackApply_of_refused hpin hdev hphase hbusy hquiet, hdev', hwhy, hchannel, hbcb, hclock,
      haccess, fun r => ?region, fun d => hnone d ?chan, fun p => ?limit, ?service, ?config, fun b hb => ?others, hscrub,
      fun l => ?flag, mirror_settle_full (by rw [hdev']; decide) rfl hmirror, hram, hlanes⟩
    case region =>
      refine (congrArg (fun v => (v.get r).enabled) hregions).trans ?_
      exact congrArg Region.enabled (vector_get_replicate Region.reset r)
    case chan =>
      have hempty : fallbackImage.channels.get d = none := vector_get_replicate none d
      rw [chan_applySettings, hempty]
      rfl
    case limit =>
      obtain ⟨hlimit, -⟩ := hport p
      refine hlimit.trans ?_
      rw [port_applySettings]
      cases p <;> rfl
    case service => exact (congrArg Bank.service (hbank 0)).trans rfl
    case config => exact ⟨_, congrArg Bank.config (hbank 0), rfl, rfl, rfl, rfl, rfl, rfl, rfl⟩
    case others =>
      have hnobank := (hbank b).trans (congrArg freshBank (fallbackImage_banks b hb))
      exact ⟨congrArg Bank.service hnobank, congrArg Bank.config hnobank⟩
    case flag => exact (hstage l _ (by decide)).trans (if_pos ⟨rfl, rfl⟩)
  case accepted =>
    have hports : ∀ p, ((applySettings img s).port p).phase = .idle := fun p => by
      rw [port_applySettings]
      exact hidle p
    have hquiet : initFrom 0 (applySettings img s) = loadedState .run .ok 0 (applySettings img s) :=
      (initFrom_applySettings_none hinit).trans (endLoading_of_quiet _ _ _ hheld hports)
    have hflags := globalStage_loadedState .run .ok 0 (applySettings img s)
    have hended := loadingEnded_loadedState .run .ok 0 (applySettings img s)
    generalize loadedState .run .ok 0 (applySettings img s) = u at hquiet hflags hended
    obtain ⟨hdev', hwhy, -, hclock, -, hport, hregions, haccess, hbcb, hbanks, hsome, hnone, -, -, -, -, hmirror,
      hram, hlanes, -, -, -, -, -, -, -, -, -, -, -, -⟩ := hended
    have hbank : ∀ b, u.bank b = freshBank (img.banks.get b) := fun b =>
      (bank_of_banks hbanks b).trans (bank_applySettings ..)
    refine ⟨settle s u, exec_applyImage_of_accepted hpin hdev hphase hbusy hquiet, hdev', hwhy, hbcb, hclock, haccess,
      hregions, fun p => ?limit, fun b => ?bank, fun c hc => hnone c ?chan, fun c cfg hc => ?entry, fun l n => ?flag,
      mirror_settle_full (by rw [hdev']; decide) rfl hmirror, hram, hlanes⟩
    case limit =>
      obtain ⟨hlimit, -⟩ := hport p
      refine hlimit.trans ?_
      rw [port_applySettings]
    case bank =>
      have hb : (settle s u).bank b = freshBank (img.banks.get b) := hbank b
      rw [hb]
      exact ⟨rfl, rfl, rfl, rfl, rfl⟩
    case chan =>
      rw [chan_applySettings, hc]
      rfl
    case entry =>
      have hloaded : (applySettings img s).chan c = some (Channel.loaded cfg true) := by
        rw [chan_applySettings, hc]
        rfl
      refine ⟨_, hsome c _ hloaded, ?_⟩
      have hcfg : (Channel.loaded cfg true).config = cfg := rfl
      rw [hcfg]
      split <;> exact ⟨rfl, rfl, rfl, rfl⟩
    case flag =>
      have hl : (settle s u).globalStage l n = _ := hflags l n
      rw [hl]
      split
      · rename_i h
        obtain ⟨-, hrun⟩ | ⟨hissuer, hn⟩ := h
        · cases hrun
        · obtain ⟨⟨q, w⟩, hw, rfl⟩ := Option.map_eq_some_iff.1 hissuer
          exact .inr ⟨hn, w, reloadIssuer_eq_some hw⟩
      · exact .inl rfl
  case none => exact exec_applyImage_of_accepted hpin hdev hphase hbusy (initFrom_applySettings_none hinit)
  case some =>
    have hbank : ((applySettings img s).bank b).config = some cfg := by
      rw [bank_applySettings, hcfg]
      rfl
    have hinitFrom : initFrom 0 (applySettings img s) = startInit b cfg.base (applySettings img s) :=
      initFrom_of_next (Nat.zero_le _) hbank hinit fun e _ he x hx => hfirst e x he (config_applySettings hx)
    exact ⟨_, exec_applyImage_of_accepted hpin hdev hphase hbusy hinitFrom, hdev, rfl, rfl,
      fun p => port_applySettings img s p, rfl, rfl, rfl, rfl, rfl, rfl, rfl,
      fun c n => channelStage_applySettings img s c n⟩

end Sys2Proof.Proofs
end


section
/-! SUPPORT. What the withdrawals of a departure make of the two ports (R122, R145): the port withdrawn, the other port,
and what neither takes away. -/

namespace Sys2Proof.Machine

open Sys2Proof

/-! ## What the end of a port's operation takes away -/

/-- The touch of a port's operation, which takes no offset out of the dirty set and posts or unposts no flag. -/
structure PortQuiet (s t : State) : Prop where
  touch : PortTouch s t
  dirty : ∀ off ∈ s.mirror.dirty, off ∈ t.mirror.dirty
  posted : ∀ l n, t.globalStage l n = .posted ↔ s.globalStage l n = .posted

theorem PortQuiet.refl (s : State) : PortQuiet s s := ⟨.refl s, fun _ h => h, fun _ _ => Iff.rfl⟩

theorem PortQuiet.trans {s t u : State} (h : PortQuiet s t) (h' : PortQuiet t u) : PortQuiet s u :=
  ⟨h.touch.trans h'.touch, fun off ho => h'.dirty off (h.dirty off ho), fun l n => (h'.posted l n).trans (h.posted l n)⟩

theorem PortQuiet.setPort (p : Port) (r : PortRecord) (s : State) : PortQuiet s (s.setPort p r) :=
  ⟨.phase p r s, fun _ h => h, fun _ _ => Iff.rfl⟩

theorem PortQuiet.setLock (l : Option Lock) (s : State) : PortQuiet s (s.setLock l) :=
  ⟨⟨s.ports, s.globalFlags, s.commands, s.nextStamp, s.mirror.dirty, l, rfl⟩, fun _ h => h, fun _ _ => Iff.rfl⟩

theorem PortQuiet.setCommand (p : Port) (x : PortCommand) (n : Nat) (s : State) :
    PortQuiet s { s.setCommand p x with nextStamp := n } :=
  ⟨⟨s.ports, s.globalFlags, _, n, s.mirror.dirty, s.arbiter.lock, rfl⟩, fun _ h => h, fun _ _ => Iff.rfl⟩

theorem PortQuiet.markDirty (off : Nat) (s : State) : PortQuiet s (markDirty off s) :=
  ⟨⟨s.ports, s.globalFlags, s.commands, s.nextStamp, _, s.arbiter.lock, rfl⟩,
    fun k hk => (mem_insertOffset off k s.mirror.dirty).2 (.inr hk), fun _ _ => Iff.rfl⟩

/-- A raise makes a CLEAR flag pending. -/
theorem posted_raiseGlobal (l m : Port) (f : GlobalFlag) (n : Fin 9) (s : State) :
    (raiseGlobal l f s).globalStage m n = .posted ↔ s.globalStage m n = .posted := by
  rw [globalStage_raiseGlobal_ite]
  split
  · rename_i h
    rw [h.2]
    exact ⟨nofun, nofun⟩
  · exact Iff.rfl

theorem posted_raiseBoth (m : Port) (f : GlobalFlag) (n : Fin 9) (s : State) :
    (raiseBoth f s).globalStage m n = .posted ↔ s.globalStage m n = .posted :=
  (posted_raiseGlobal ..).trans (posted_raiseGlobal ..)

theorem PortQuiet.raiseGlobal (l : Port) (f : GlobalFlag) (s : State) : PortQuiet s (raiseGlobal l f s) := by
  obtain ⟨g, h⟩ := raiseGlobal_touches l f s
  refine ⟨⟨s.ports, g, s.commands, s.nextStamp, s.mirror.dirty, s.arbiter.lock, h⟩, fun off ho => ?_,
    fun m n => posted_raiseGlobal l m f n s⟩
  rw [h]
  exact ho

theorem PortQuiet.giveAnswer (p : Port) (a : Access) (ans : Answer) (addr : BitVec 24) (l : Bool) (s : State) :
    PortQuiet s (giveAnswer p a ans addr l s) := by
  obtain ⟨d, f⟩ := ans
  cases f with
  | none => exact .setPort ..
  | some f =>
    by_cases hl : s.device = .loading
    · rw [giveAnswer_fault_loading hl]
      exact .setPort ..
    · rw [giveAnswer_fault_running hl]
      exact (PortQuiet.setPort ..).trans (.raiseGlobal ..)

theorem PortQuiet.acceptCommand (p : Port) (w : Word) (s : State) : PortQuiet s (acceptCommand p w s) := by
  by_cases hidle : (s.command p).state = .idle
  · by_cases hl : s.device = .loading
    · rw [acceptCommand_loading hidle hl]
      exact .refl s
    · rw [acceptCommand_idle hidle hl]
      exact (PortQuiet.setCommand ..).trans (.markDirty ..)
  · rw [acceptCommand_refused hidle]
    exact ((PortQuiet.setCommand p _ s.nextStamp s).trans (.markDirty ..)).trans (.raiseGlobal ..)

theorem PortQuiet.lockAfter (p : Port) (tag : OpTag) (f : Option FaultCode) (s : State) :
    PortQuiet s (lockAfter p tag f s) := by
  unfold Machine.lockAfter
  split
  · split
    · exact .setLock ..
    · exact .refl s
  · exact .setLock ..
  all_goals exact .refl s

theorem PortQuiet.answerOp (p : Port) (a : Access) (op : PortOp) (r : OpResult) (s : State) :
    PortQuiet s (answerOp p a op r s) := by
  unfold Machine.answerOp
  split
  · split
    · exact (PortQuiet.acceptCommand ..).trans (.giveAnswer ..)
    · exact .setPort ..
  all_goals exact .giveAnswer ..

theorem PortQuiet.putLast (p : Port) (a : Access) (op : PortOp) (s : State) : PortQuiet s (putLast p a op s) := by
  unfold Machine.putLast
  split
  · exact .setPort ..
  · exact .answerOp ..

theorem PortQuiet.releaseKeptBack (p : Port) (tag : OpTag) (s : State) : PortQuiet s (releaseKeptBack p tag s) := by
  unfold Machine.releaseKeptBack
  split
  · split
    · split
      · exact .putLast ..
      · exact .refl s
    · exact .refl s
  all_goals exact .refl s

theorem PortQuiet.endPortOp (p : Port) (a : Access) (op : PortOp) (r : OpResult) (s : State) :
    PortQuiet s (endPortOp p a op r s) :=
  ((PortQuiet.lockAfter ..).trans (.answerOp ..)).trans (.releaseKeptBack ..)

theorem PortQuiet.withdrawPort (b : BankId) (p : Port) (s : State) : PortQuiet s (withdrawPort b p s) := by
  unfold Machine.withdrawPort
  split
  · split
    · exact .endPortOp ..
    · exact .refl s
  · exact .refl s

theorem PortTouch.inService {s t : State} (h : PortTouch s t) (b : BankId) : t.inService b = s.inService b := by
  obtain ⟨x, g, c, n, d, l, rfl⟩ := h
  rfl

theorem PortTouch.device {s t : State} (h : PortTouch s t) : t.device = s.device := by
  obtain ⟨x, g, c, n, d, l, rfl⟩ := h
  rfl

/-! ## The other port -/

/-- A port's record and its command are as before. -/
structure SamePort (p : Port) (s t : State) : Prop where
  port : t.port p = s.port p
  command : t.command p = s.command p

theorem SamePort.refl (p : Port) (s : State) : SamePort p s s := ⟨rfl, rfl⟩

theorem SamePort.trans {p : Port} {s t u : State} (h : SamePort p s t) (h' : SamePort p t u) : SamePort p s u :=
  ⟨h'.port.trans h.port, h'.command.trans h.command⟩

theorem SamePort.setPort (p : Port) (r : PortRecord) (s : State) : SamePort (otherPort p) s (s.setPort p r) := by
  cases p <;> exact ⟨rfl, rfl⟩

theorem SamePort.setCommand (p : Port) (x : PortCommand) (n : Nat) (s : State) :
    SamePort (otherPort p) s { s.setCommand p x with nextStamp := n } := by
  cases p <;> exact ⟨rfl, rfl⟩

theorem SamePort.raiseGlobal (p l : Port) (f : GlobalFlag) (s : State) : SamePort p s (raiseGlobal l f s) := by
  obtain ⟨g, h⟩ := raiseGlobal_touches l f s
  rw [h]
  exact ⟨rfl, rfl⟩

theorem SamePort.markDirty (p : Port) (off : Nat) (s : State) : SamePort p s (markDirty off s) := ⟨rfl, rfl⟩

theorem SamePort.giveAnswer (p : Port) (a : Access) (ans : Answer) (addr : BitVec 24) (l : Bool) (s : State) :
    SamePort (otherPort p) s (giveAnswer p a ans addr l s) := by
  obtain ⟨d, f⟩ := ans
  cases f with
  | none => exact .setPort ..
  | some f =>
    by_cases hl : s.device = .loading
    · rw [giveAnswer_fault_loading hl]
      exact .setPort ..
    · rw [giveAnswer_fault_running hl]
      exact (SamePort.setPort ..).trans (.raiseGlobal ..)

theorem SamePort.acceptCommand (p : Port) (w : Word) (s : State) :
    SamePort (otherPort p) s (acceptCommand p w s) := by
  by_cases hidle : (s.command p).state = .idle
  · by_cases hl : s.device = .loading
    · rw [acceptCommand_loading hidle hl]
      exact .refl ..
    · rw [acceptCommand_idle hidle hl]
      exact (SamePort.setCommand ..).trans (.markDirty ..)
  · rw [acceptCommand_refused hidle]
    exact ((SamePort.setCommand p _ s.nextStamp s).trans (.markDirty ..)).trans (.raiseGlobal ..)

theorem SamePort.lockAfter (q p : Port) (tag : OpTag) (f : Option FaultCode) (s : State) :
    SamePort q s (lockAfter p tag f s) := by
  unfold Machine.lockAfter
  split
  · split <;> exact ⟨rfl, rfl⟩
  all_goals exact ⟨rfl, rfl⟩

theorem SamePort.answerOp (p : Port) (a : Access) (op : PortOp) (r : OpResult) (s : State) :
    SamePort (otherPort p) s (answerOp p a op r s) := by
  unfold Machine.answerOp
  split
  · split
    · exact (SamePort.acceptCommand ..).trans (.giveAnswer ..)
    · exact .setPort ..
  all_goals exact .giveAnswer ..

/-- What lets the other port's access go leaves the port's own. -/
theorem SamePort.releaseKeptBack (p : Port) (tag : OpTag) (s : State) : SamePort p s (releaseKeptBack p tag s) := by
  have hput : ∀ q a op, SamePort (otherPort q) s (putLast q a op s) := fun q a op => by
    unfold Machine.putLast
    split
    · exact .setPort ..
    · exact .answerOp ..
  have hother := hput (otherPort p)
  rw [otherPort_otherPort] at hother
  unfold Machine.releaseKeptBack
  split
  · split
    · split
      · exact hother ..
      · exact .refl ..
    · exact .refl ..
  all_goals exact .refl ..

/-- An operation that lets no access of the other port go leaves that port. -/
theorem SamePort.endPortOp {p : Port} {s : State} (a : Access) (op : PortOp) (r : OpResult)
    (h : ∀ a' o' c i, (s.port (otherPort p)).phase ≠ .keptBack a' o' c i) :
    SamePort (otherPort p) s (endPortOp p a op r s) := by
  have hanswer : SamePort (otherPort p) s (Machine.answerOp p a op r (Machine.lockAfter p op.tag r.fault s)) :=
    (SamePort.lockAfter ..).trans (.answerOp ..)
  have hrelease : Machine.endPortOp p a op r s = Machine.answerOp p a op r (Machine.lockAfter p op.tag r.fault s) := by
    unfold Machine.endPortOp
    generalize Machine.answerOp p a op r (Machine.lockAfter p op.tag r.fault s) = t at hanswer
    cases op.tag with
    | commitWord c i => exact releaseKeptBack_nothing fun a' o' => by rw [hanswer.port]; exact h a' o' c i
    | _ => rfl
  rw [hrelease]
  exact hanswer

/-! ## The port withdrawn -/

/-- The answer of an operation withdrawn, unless it has a handover of its own to make. -/
theorem answerOp_unavailable {p : Port} {a : Access} {op : PortOp} (s : State)
    (h : ∀ off, op.tag = .bcb off → off = 2 + portNat p) :
    ((answerOp p a op unavailableResult s).port p).phase = .idle
      ∧ ((answerOp p a op unavailableResult s).port p).answer = some ⟨[], some .unavailable⟩ := by
  unfold answerOp
  split
  · rename_i off htag
    rw [if_pos (h off htag)]
    exact giveAnswer_phase ..
  all_goals
    rw [unavailable_data]
    exact giveAnswer_phase ..

theorem answerOp_handover {p : Port} {a : Access} {op : PortOp} {off : Nat} (s : State) (htag : op.tag = .bcb off)
    (hoff : off ≠ 2 + portNat p) :
    ((answerOp p a op unavailableResult s).port p).phase = .handover a off (beatData a 0) (some .unavailable) := by
  simp only [answerOp, htag, if_neg hoff, port_setPort_same]
  rfl

/-- The port itself, whatever its end lets go. -/
theorem endPortOp_own (p : Port) (a : Access) (op : PortOp) (r : OpResult) (s : State) :
    SamePort p (answerOp p a op r (lockAfter p op.tag r.fault s)) (endPortOp p a op r s) :=
  SamePort.releaseKeptBack ..

theorem endPortOp_unavailable {p : Port} {a : Access} {op : PortOp} (s : State)
    (h : ∀ off, op.tag = .bcb off → off = 2 + portNat p) :
    ((endPortOp p a op unavailableResult s).port p).phase = .idle
      ∧ ((endPortOp p a op unavailableResult s).port p).answer = some ⟨[], some .unavailable⟩ := by
  rw [(endPortOp_own ..).1]
  exact answerOp_unavailable _ h

theorem endPortOp_handover {p : Port} {a : Access} {op : PortOp} {off : Nat} (s : State) (htag : op.tag = .bcb off)
    (hoff : off ≠ 2 + portNat p) :
    ((endPortOp p a op unavailableResult s).port p).phase = .handover a off (beatData a 0) (some .unavailable) := by
  rw [(endPortOp_own ..).1]
  exact answerOp_handover _ htag hoff

/-- An operation withdrawn waits for nothing. -/
theorem endPortOp_not_keptBack (p : Port) (a : Access) (op : PortOp) (s : State) (a' : Access) (o' : PortOp)
    (c : ChanId) (i : Fin 8) : ((endPortOp p a op unavailableResult s).port p).phase ≠ .keptBack a' o' c i := by
  by_cases hoff : ∀ off, op.tag = .bcb off → off = 2 + portNat p
  · rw [(endPortOp_unavailable s hoff).1]
    exact nofun
  · simp only [Classical.not_forall] at hoff
    obtain ⟨off, htag, hoff⟩ := hoff
    rw [endPortOp_handover s htag hoff]
    exact nofun

/-- The command of a port whose command word's write is withdrawn. -/
theorem endPortOp_command {p : Port} {a : Access} {op : PortOp} (s : State) (htag : op.tag = .bcb (2 + portNat p)) :
    (endPortOp p a op unavailableResult s).command p = (acceptCommand p (beatData a 0) s).command p := by
  rw [endPortOp_bcb_command htag]
  obtain ⟨x, g, h⟩ := giveAnswer_touches p a ⟨[], unavailableResult.fault⟩ a.addr a.locked
    (acceptCommand p (beatData a 0) s)
  rw [h]
  rfl

/-- The access kept back behind a commit's word, when that write is withdrawn. -/
theorem endPortOp_releases {p : Port} {a a' : Access} {op o' : PortOp} {c : ChanId} {i : Fin 8} (s : State)
    (htag : op.tag = .commitWord c i) (hkept : (s.port (otherPort p)).phase = .keptBack a' o' c i)
    (hplain : o'.tag = .plain) :
    (s.inService o'.bank = true →
      ((endPortOp p a op unavailableResult s).port (otherPort p)).phase = .atArbiter a' o')
    ∧ (s.inService o'.bank = false →
      ((endPortOp p a op unavailableResult s).port (otherPort p)).phase = .idle
      ∧ ((endPortOp p a op unavailableResult s).port (otherPort p)).answer = some ⟨[], some .unavailable⟩) := by
  rw [endPortOp_commitWord htag, unavailable_data]
  have hother := SamePort.giveAnswer p a ⟨[], some .unavailable⟩ (faultAddress a unavailableResult.done) a.locked s
  have hquiet := PortQuiet.giveAnswer p a ⟨[], some .unavailable⟩ (faultAddress a unavailableResult.done) a.locked s
  generalize giveAnswer p a ⟨[], some .unavailable⟩ (faultAddress a unavailableResult.done) a.locked s = u at hother hquiet
  rw [releaseKeptBack_commitWord (by rw [hother.port]; exact hkept)]
  refine ⟨fun hin => ?_, fun hout => ?_⟩
  · rw [putLast_of_inService ((hquiet.touch.inService _).trans hin), port_setPort_same]
  · rw [putLast_of_outOfService ((hquiet.touch.inService _).trans hout)]
    exact answerOp_unavailable u fun off h => by rw [hplain] at h; cases h

/-! ## The two ports of a departure -/

theorem withdrawPort_of_waiting {b : BankId} {p : Port} {a : Access} {op : PortOp} {s : State}
    (h : (s.port p).phase = .atArbiter a op) (hb : op.bank = b) :
    withdrawPort b p s = endPortOp p a op unavailableResult s := by
  simp only [withdrawPort, h, hb, if_true]

theorem withdrawPort_of_other {b : BankId} {p : Port} {s : State}
    (h : ∀ a op, (s.port p).phase = .atArbiter a op → op.bank ≠ b) : withdrawPort b p s = s := by
  unfold withdrawPort
  split
  · rename_i a op hphase
    exact if_neg (h a op hphase)
  · rfl

theorem SamePort.withdrawPort {b : BankId} {p : Port} {s : State}
    (h : ∀ a' o' c i, (s.port (otherPort p)).phase ≠ .keptBack a' o' c i) :
    SamePort (otherPort p) s (withdrawPort b p s) := by
  unfold Machine.withdrawPort
  split
  · split
    · exact .endPortOp _ _ _ h
    · exact .refl ..
  · exact .refl ..

/-- Both withdrawals, port 0's first (log 39). -/
def withdrawPorts (b : BankId) (s : State) : State :=
  withdrawPort b .port1 (withdrawPort b .port0 s)

theorem PortQuiet.withdrawPorts (b : BankId) (s : State) : PortQuiet s (withdrawPorts b s) :=
  (PortQuiet.withdrawPort ..).trans (.withdrawPort ..)

section
variable {b : BankId} {p : Port} {s : State}

/-- A port with nothing to withdraw, and nothing kept back. -/
theorem port_withdrawPorts_untouched (hkept : ∀ a' o' c i, (s.port p).phase ≠ .keptBack a' o' c i)
    (hother : ∀ a op, (s.port p).phase = .atArbiter a op → op.bank ≠ b) : (withdrawPorts b s).port p = s.port p := by
  cases p with
  | port0 =>
    rw [withdrawPorts, withdrawPort_of_other hother]
    exact (SamePort.withdrawPort (p := .port1) hkept).1
  | port1 =>
    have h0 : (withdrawPort b .port0 s).port .port1 = s.port .port1 := (SamePort.withdrawPort (p := .port0) hkept).1
    rw [withdrawPorts, withdrawPort_of_other fun a op h => hother a op (by rwa [h0] at h)]
    exact h0

section
variable {a : Access} {op : PortOp} (h : (s.port p).phase = .atArbiter a op) (hb : op.bank = b)
include h hb

/-- A port withdrawn: its record and its command are those the end of its operation leaves. -/
theorem withdrawPorts_withdrawn :
    ∃ u, PortQuiet s u ∧ SamePort p s u ∧ SamePort p (endPortOp p a op unavailableResult u) (withdrawPorts b s) := by
  cases p with
  | port0 =>
    refine ⟨s, .refl s, .refl .port0 s, ?_⟩
    rw [withdrawPorts, withdrawPort_of_waiting h hb]
    exact SamePort.withdrawPort (p := .port1) fun a' o' c i => endPortOp_not_keptBack .port0 a op s a' o' c i
  | port1 =>
    have h0 : SamePort .port1 s (withdrawPort b .port0 s) := SamePort.withdrawPort (p := .port0) fun a' o' c i hk => by
      cases h.symm.trans hk
    have h1 : ((withdrawPort b .port0 s).port .port1).phase = .atArbiter a op := by rw [h0.1]; exact h
    refine ⟨withdrawPort b .port0 s, .withdrawPort b .port0 s, h0, ?_⟩
    rw [withdrawPorts, withdrawPort_of_waiting h1 hb]
    exact .refl ..

/-- The access kept back behind a commit's word whose write is withdrawn. -/
theorem withdrawPorts_released {a' : Access} {o' : PortOp} {c : ChanId} {i : Fin 8} (htag : op.tag = .commitWord c i)
    (hout : s.inService b = false) (hkept : (s.port (otherPort p)).phase = .keptBack a' o' c i)
    (hplain : o'.tag = .plain) :
    (s.inService o'.bank = true → ((withdrawPorts b s).port (otherPort p)).phase = .atArbiter a' o')
    ∧ (s.inService o'.bank = false →
      ((withdrawPorts b s).port (otherPort p)).phase = .idle
      ∧ ((withdrawPorts b s).port (otherPort p)).answer = some ⟨[], some .unavailable⟩) := by
  have hends := endPortOp_releases (a := a) s htag hkept hplain
  cases p with
  | port0 =>
    rw [withdrawPorts, withdrawPort_of_waiting h hb]
    generalize endPortOp .port0 a op unavailableResult s = t at hends
    have hstays : withdrawPort b .port1 t = t := by
      refine withdrawPort_of_other fun a1 o1 h1 => ?_
      cases hin : s.inService o'.bank with
      | true =>
        cases (hends.1 hin).symm.trans h1
        rintro rfl
        rw [hout] at hin
        cases hin
      | false => cases (hends.2 hin).1.symm.trans h1
    rw [hstays]
    exact hends
  | port1 =>
    have h0 : withdrawPort b .port0 s = s := withdrawPort_of_other fun a1 o1 h1 => by cases hkept.symm.trans h1
    rw [withdrawPorts, h0, withdrawPort_of_waiting h hb]
    exact hends

end
end

end Sys2Proof.Machine
end


section
/-! PROOF. Departures (R145 to R147): the reports taken, and what a departure does outside the bank's record. -/

namespace Sys2Proof.Machine

open Sys2Proof

/-! ## The copy engine's waiting operation -/

theorem waits_iff {j : CopyJob} : j.waits = true ↔ j.flight = .readWaiting ∨ j.flight = .writeWaiting := by
  unfold CopyJob.waits
  cases j.flight <;> simp

theorem withdrawCopy_active {b : BankId} {s : State} {j : CopyJob} (h : s.copy.state = .active j)
    (hwait : j.flight = .readWaiting ∨ j.flight = .writeWaiting) (hb : j.bank = b) :
    withdrawCopy b s = clearCopyPass (s.setEngine (.ending { j with flight := .none } .failure)) := by
  simp only [withdrawCopy, h]
  exact if_pos ⟨waits_iff.2 hwait, hb⟩

theorem withdrawCopy_draining {b : BankId} {s : State} {j : CopyJob} (h : s.copy.state = .draining j)
    (hwait : j.flight = .readWaiting ∨ j.flight = .writeWaiting) (hb : j.bank = b) :
    withdrawCopy b s = clearCopyPass (engineIdle s) := by
  simp only [withdrawCopy, h]
  exact if_pos ⟨waits_iff.2 hwait, hb⟩

theorem withdrawCopy_of_other {b : BankId} {s : State}
    (h : ∀ j, s.copy.state.job = some j → j.bank ≠ b ∨ (j.flight ≠ .readWaiting ∧ j.flight ≠ .writeWaiting)) :
    withdrawCopy b s = s := by
  have hnot : ∀ j, s.copy.state.job = some j → ¬ (j.waits = true ∧ j.bank = b) := by
    rintro j hj ⟨hwait, hb⟩
    rcases h j hj with hne | ⟨hr, hw⟩
    · exact hne hb
    · exact (waits_iff.1 hwait).elim hr hw
  unfold withdrawCopy
  split
  · rename_i j hj
    exact if_neg (hnot j (by rw [hj]; rfl))
  · rename_i j hj
    exact if_neg (hnot j (by rw [hj]; rfl))
  · rfl
  · rfl

theorem withdrawCopy_touches (b : BankId) (s : State) :
    ∃ c n, withdrawCopy b s = { s with copy := c, arbiter := { s.arbiter with copyPass := n } } := by
  have hself : ∃ c n, s = { s with copy := c, arbiter := { s.arbiter with copyPass := n } } :=
    ⟨s.copy, s.arbiter.copyPass, rfl⟩
  unfold withdrawCopy
  split
  · split
    · exact ⟨_, 0, rfl⟩
    · exact hself
  · split
    · exact ⟨_, 0, rfl⟩
    · exact hself
  · exact hself
  · exact hself

/-! ## The mirror writer's waiting request -/

theorem withdrawMirror_of_waiting {b : BankId} {s : State} {off : Nat} (h : s.mirror.request = .waiting off)
    (hb : s.bcbBank = some b) :
    withdrawMirror b s = clearMirrorPass (markDirty off { s with mirror := { s.mirror with request := .none } }) := by
  simp only [withdrawMirror, h, hb, if_true]

theorem withdrawMirror_of_other {b : BankId} {s : State}
    (h : (∀ off, s.mirror.request ≠ .waiting off) ∨ s.bcbBank ≠ some b) : withdrawMirror b s = s := by
  unfold withdrawMirror
  split
  · rename_i off hoff
    exact if_neg (h.resolve_left fun hno => hno off hoff)
  all_goals rfl

theorem withdrawMirror_touches (b : BankId) (s : State) :
    ∃ q d n, withdrawMirror b s = { s with
        mirror := { s.mirror with request := q, dirty := d }, arbiter := { s.arbiter with mirrorPass := n } }
      ∧ ∀ off ∈ s.mirror.dirty, off ∈ d := by
  have hself : ∃ q d n, s = { s with
      mirror := { s.mirror with request := q, dirty := d }, arbiter := { s.arbiter with mirrorPass := n } }
      ∧ ∀ off ∈ s.mirror.dirty, off ∈ d :=
    ⟨s.mirror.request, s.mirror.dirty, s.arbiter.mirrorPass, rfl, fun _ h => h⟩
  unfold withdrawMirror
  split
  · split
    · exact ⟨.none, _, 0, rfl, fun k hk => (mem_insertOffset _ k s.mirror.dirty).2 (.inr hk)⟩
    · exact hself
  all_goals exact hself

/-! ## The scrubber and the channels -/

theorem scrubOnward_quiet (lo : Nat) (s : State) :
    (∃ x g, scrubOnward lo s = { s with scrub := x, globalFlags := g })
      ∧ ∀ l n, (scrubOnward lo s).globalStage l n = .posted ↔ s.globalStage l n = .posted := by
  cases hlo : s.eligibleFrom lo with
  | some a =>
    rw [scrubOnward_of_some hlo]
    exact ⟨⟨_, s.globalFlags, rfl⟩, fun _ _ => Iff.rfl⟩
  | none =>
    cases h0 : s.eligibleFrom 0 with
    | some a =>
      rw [scrubOnward_of_wrap hlo h0]
      generalize ({ s.scrub with position := some a, passes := satInc s.scrub.passes } : Scrubber) = x
      obtain ⟨g, hg⟩ := raiseBoth_touches .scrubPass (s.setScrub x)
      exact ⟨⟨x, g, hg⟩, fun l n => posted_raiseBoth l .scrubPass n (s.setScrub x)⟩
    | none =>
      rw [scrubOnward_of_none hlo h0]
      exact ⟨⟨_, s.globalFlags, rfl⟩, fun _ _ => Iff.rfl⟩

theorem scrubberTakes_departure_quiet (b : BankId) (s : State) :
    (∃ x g, scrubberTakes b scrubDeparture s = { s with scrub := x, globalFlags := g })
      ∧ ∀ l n, (scrubberTakes b scrubDeparture s).globalStage l n = .posted ↔ s.globalStage l n = .posted := by
  have hself : (∃ x g, s = { s with scrub := x, globalFlags := g })
      ∧ ∀ l n, s.globalStage l n = .posted ↔ s.globalStage l n = .posted :=
    ⟨⟨s.scrub, s.globalFlags, rfl⟩, fun _ _ => Iff.rfl⟩
  unfold scrubberTakes
  split
  · cases hin : s.scrubIn b with
    | true =>
      obtain ⟨⟨x, g, h⟩, hposted⟩ := scrubOnward_quiet (s.bankBase b) s
      rw [scrubDeparture_in hin]
      refine ⟨?_, hposted⟩
      rw [h]
      exact ⟨_, g, rfl⟩
    | false =>
      rw [show scrubDeparture b s = s from if_neg (by rw [hin]; decide)]
      exact hself
  · exact hself

theorem chan_notifyChannels (b : BankId) (n : Notice) (s : State) (c : ChanId) :
    (notifyChannels b n s).chan c = (s.chan c).map fun ch =>
      { ch with notices := if (s.bank b).covers ch.config.slotBase then ch.notices ++ [n] else ch.notices } := by
  refine (vector_get_map _ s.channels c).trans ?_
  change _ = (s.channels.get c).map _
  cases s.channels.get c with
  | none => rfl
  | some ch =>
    cases hcov : (s.bank b).covers ch.config.slotBase <;>
      simp only [Option.map_some, Bank.holdsSlots, hcov, Bool.false_eq_true, if_true, if_false]

/-! ## The departure as a whole -/

/-- The bank's pending storm report dropped. -/
def stormDropped (b : BankId) (s : State) : State :=
  { s with stormReports := s.stormReports.filter (fun x => x != b) }

/-- The withdrawals of a departure: the ports', the copy engine's, the mirror writer's. -/
def withdrawals (b : BankId) (s : State) : State :=
  withdrawMirror b (withdrawCopy b (withdrawPorts b (stormDropped b s)))

/-- After its withdrawals a departure touches the scrubber, the pending flags and the channels' notices. -/
theorem departureEffects_touches (b : BankId) (s : State) :
    ∃ x g v, departureEffects b s = { withdrawals b s with scrub := x, globalFlags := g, channels := v } := by
  obtain ⟨⟨x, g, h⟩, -⟩ := scrubberTakes_departure_quiet b (withdrawals b s)
  have hlast : departureEffects b s = notifyChannels b .leaving (scrubberTakes b scrubDeparture (withdrawals b s)) := rfl
  rw [hlast, h]
  exact ⟨x, g, _, rfl⟩

/-- The mirror writer's withdrawal leaves what it does not own. -/
theorem withdrawals_touches (b : BankId) (s : State) :
    ∃ c n q d m, withdrawals b s = { withdrawPorts b (stormDropped b s) with
        copy := c, mirror := { (withdrawPorts b (stormDropped b s)).mirror with request := q, dirty := d }
        arbiter := { (withdrawPorts b (stormDropped b s)).arbiter with copyPass := n, mirrorPass := m } }
      ∧ ∀ off ∈ (withdrawPorts b (stormDropped b s)).mirror.dirty, off ∈ d := by
  obtain ⟨c, n, hc⟩ := withdrawCopy_touches b (withdrawPorts b (stormDropped b s))
  obtain ⟨q, d, m, hm, hd⟩ := withdrawMirror_touches b (withdrawCopy b (withdrawPorts b (stormDropped b s)))
  refine ⟨c, n, q, d, m, ?_, fun off ho => hd off ?_⟩
  · rw [withdrawals, hm, hc]
  · rw [hc]
    exact ho

theorem departureEffects_ports (b : BankId) (s : State) :
    (departureEffects b s).ports = (withdrawPorts b (stormDropped b s)).ports
      ∧ (departureEffects b s).commands = (withdrawPorts b (stormDropped b s)).commands := by
  obtain ⟨x, g, v, h⟩ := departureEffects_touches b s
  obtain ⟨c, n, q, d, m, hw, -⟩ := withdrawals_touches b s
  rw [h, hw]
  exact ⟨rfl, rfl⟩

theorem port_departureEffects (b : BankId) (s : State) (p : Port) :
    SamePort p (withdrawPorts b (stormDropped b s)) (departureEffects b s) := by
  obtain ⟨hports, hcommands⟩ := departureEffects_ports b s
  exact ⟨congrArg (Pair.get · p) hports, congrArg (Pair.get · p) hcommands⟩

theorem departureEffects_memory (b : BankId) (s : State) :
    (departureEffects b s).arbiter.busy = s.arbiter.busy ∧ (departureEffects b s).ram = s.ram
      ∧ (departureEffects b s).lanes = s.lanes
      ∧ ∀ c n, (departureEffects b s).channelStage c n = s.channelStage c n := by
  obtain ⟨x, g, v, h⟩ := departureEffects_touches b s
  obtain ⟨c, n, q, d, m, hw, -⟩ := withdrawals_touches b s
  obtain ⟨⟨x', g', c', n', d', l', hp⟩, -⟩ := PortQuiet.withdrawPorts b (stormDropped b s)
  rw [h, hw, hp]
  exact ⟨rfl, rfl, rfl, fun _ _ => rfl⟩

theorem chan_departureEffects {b : BankId} {s : State} {c : ChanId} {ch : Channel} (hch : s.chan c = some ch) :
    (departureEffects b s).chan c = some
      { ch with notices := if (s.bank b).covers ch.config.slotBase then ch.notices ++ [.leaving] else ch.notices } := by
  obtain ⟨⟨x, g, h⟩, -⟩ := scrubberTakes_departure_quiet b (withdrawals b s)
  obtain ⟨c', n, q, d, m, hw, -⟩ := withdrawals_touches b s
  obtain ⟨⟨x', g', c'', n', d', l', hp⟩, -⟩ := PortQuiet.withdrawPorts b (stormDropped b s)
  have hlast : departureEffects b s = notifyChannels b .leaving (scrubberTakes b scrubDeparture (withdrawals b s)) := rfl
  have hchan : (scrubberTakes b scrubDeparture (withdrawals b s)).chan c = some ch := by
    rw [h, hw, hp]
    exact hch
  have hbank : (scrubberTakes b scrubDeparture (withdrawals b s)).bank b = s.bank b := by
    rw [h, hw, hp]
    rfl
  rw [hlast, chan_notifyChannels, hchan, hbank]
  rfl

theorem departureEffects_dirty {b : BankId} {s : State} {off : Nat} (h : off ∈ s.mirror.dirty) :
    off ∈ (departureEffects b s).mirror.dirty := by
  obtain ⟨x, g, v, ht⟩ := departureEffects_touches b s
  obtain ⟨c, n, q, d, m, hw, hd⟩ := withdrawals_touches b s
  obtain ⟨-, hports, -⟩ := PortQuiet.withdrawPorts b (stormDropped b s)
  rw [ht, hw]
  exact hd off (hports off h)

theorem departureEffects_posted (b : BankId) (s : State) (l : Port) (n : Fin 9) :
    (departureEffects b s).globalStage l n = .posted ↔ s.globalStage l n = .posted := by
  obtain ⟨-, hscrub⟩ := scrubberTakes_departure_quiet b (withdrawals b s)
  obtain ⟨c, k, q, d, m, hw, -⟩ := withdrawals_touches b s
  obtain ⟨-, -, hports⟩ := PortQuiet.withdrawPorts b (stormDropped b s)
  have hwithdrawals : (withdrawals b s).globalStage l n = (withdrawPorts b (stormDropped b s)).globalStage l n := by
    rw [hw]
    rfl
  refine (hscrub l n).trans ?_
  rw [hwithdrawals]
  exact hports l n

/-! ## The engine and the mirror writer after a departure -/

theorem departureEffects_copy (b : BankId) (s : State) :
    (departureEffects b s).copy = (withdrawCopy b (withdrawPorts b (stormDropped b s))).copy
      ∧ (departureEffects b s).arbiter.copyPass
        = (withdrawCopy b (withdrawPorts b (stormDropped b s))).arbiter.copyPass := by
  obtain ⟨x, g, v, h⟩ := departureEffects_touches b s
  obtain ⟨q, d, m, hm, -⟩ := withdrawMirror_touches b (withdrawCopy b (withdrawPorts b (stormDropped b s)))
  rw [h, withdrawals, hm]
  exact ⟨rfl, rfl⟩

theorem withdrawPorts_copy (b : BankId) (s : State) :
    (withdrawPorts b (stormDropped b s)).copy = s.copy
      ∧ (withdrawPorts b (stormDropped b s)).arbiter.copyPass = s.arbiter.copyPass := by
  obtain ⟨⟨x, g, c, n, d, l, h⟩, -⟩ := PortQuiet.withdrawPorts b (stormDropped b s)
  rw [h]
  exact ⟨rfl, rfl⟩

theorem departureEffects_mirror (b : BankId) (s : State) :
    (departureEffects b s).mirror = (withdrawals b s).mirror
      ∧ (departureEffects b s).arbiter.mirrorPass = (withdrawals b s).arbiter.mirrorPass := by
  obtain ⟨x, g, v, h⟩ := departureEffects_touches b s
  rw [h]
  exact ⟨rfl, rfl⟩

/-- What the mirror writer's withdrawal meets. -/
theorem withdrawCopy_mirror (b : BankId) (s : State) :
    (withdrawCopy b (withdrawPorts b (stormDropped b s))).mirror.request = s.mirror.request
      ∧ (withdrawCopy b (withdrawPorts b (stormDropped b s))).mirror.last = s.mirror.last
      ∧ (withdrawCopy b (withdrawPorts b (stormDropped b s))).bcbBank = s.bcbBank
      ∧ (withdrawCopy b (withdrawPorts b (stormDropped b s))).arbiter.mirrorPass = s.arbiter.mirrorPass := by
  obtain ⟨c, n, hc⟩ := withdrawCopy_touches b (withdrawPorts b (stormDropped b s))
  obtain ⟨⟨x, g, c', n', d, l, h⟩, -⟩ := PortQuiet.withdrawPorts b (stormDropped b s)
  rw [hc, h]
  exact ⟨rfl, rfl, rfl, rfl⟩

/-! ## The reports taken -/

theorem exec_timeoutReport_of_reported {s t : State} {b : BankId} (hpin : s.pinAsserted = false)
    (hrep : s.timeoutReports.contains b = true)
    (ht : timeoutFault b { s with timeoutReports := s.timeoutReports.erase b } = t) :
    exec (.timeoutReport b) s = .next (settle s t) :=
  next_event_of_some hpin ((if_pos hrep).trans (congrArg some ht))

theorem exec_storm_of_reported {s : State} {b : BankId} (hpin : s.pinAsserted = false)
    (hrep : s.stormReports.contains b = true) (hs : (s.bank b).service = .inService) :
    exec (.storm b) s = .next (settle s
      (departFenced b .storm { s with stormReports := s.stormReports.erase b })) := by
  have hin : ({ s with stormReports := s.stormReports.erase b } : State).inService b = true := beq_iff_eq.2 hs
  exact next_event_of_some hpin ((if_pos hrep).trans (congrArg some (if_pos hin)))

theorem departRetry_eq {b : BankId} {period : Nat} (s : State) (h : period ≠ 0) :
    departRetry b period s = raiseBoth .bankRetry (departureEffects b (s.setBank b
      { s.bank b with
        service := .retryWait, cause := .timeout, faultTime := some s.msCount, retryTimer := .running period })) := by
  rw [departRetry, startTimer_of_ne h]
  rfl

end Sys2Proof.Machine

namespace Sys2Proof.Proofs

open Sys2Proof Sys2Proof.Machine

/-- Settles O46: the reports by `timeoutFault` and `stormReport`; the ports by `withdrawPorts`, the copy engine and the
mirror writer by their own withdrawals. -/
theorem faultsTakeBankOut : Obligations.FaultsTakeBankOut := by
  refine ⟨fun s b cfg hpin hcfg => ⟨fun hrep hs hmode => ?off, fun hrep hs hmode hperiod => ?retry,
    fun hrep hs => ?out, fun hrep hs => ?storm⟩, fun s b => ?ports, fun s b => ?blocks⟩
  case off =>
    exact exec_timeoutReport_of_reported hpin hrep
      (timeoutFault_off (s := { s with timeoutReports := s.timeoutReports.erase b }) hs hcfg hmode)
  case retry =>
    exact exec_timeoutReport_of_reported hpin hrep
      ((timeoutFault_retry (s := { s with timeoutReports := s.timeoutReports.erase b }) hs hcfg hmode).trans
        (departRetry_eq _ hperiod))
  case out =>
    exact exec_timeoutReport_of_reported hpin hrep
      (timeoutFault_out (s := { s with timeoutReports := s.timeoutReports.erase b }) hs)
  case storm => exact exec_storm_of_reported hpin hrep hs
  case ports =>
    have hport := port_departureEffects b s
    obtain ⟨hbusy, hram, hlanes, -⟩ := departureEffects_memory b s
    have hanswered : ∀ p a op, (s.port p).phase = .atArbiter a op → op.bank = b →
        (∀ off, op.tag = .bcb off → off = 2 + portNat p) →
        ((departureEffects b s).port p).phase = .idle
          ∧ ((departureEffects b s).port p).answer = some ⟨[], some .unavailable⟩ := by
      intro p a op hphase hb htag
      obtain ⟨u, -, -, hend⟩ := withdrawPorts_withdrawn (s := stormDropped b s) hphase hb
      rw [(hport p).1, hend.port]
      exact endPortOp_unavailable u htag
    refine ⟨fun c ch hch => ⟨_, chan_departureEffects hch, rfl⟩, hbusy, hram, hlanes, fun p a op hphase => ?granted,
      fun p a op hphase hb htag => hanswered p a op hphase hb (by rw [htag]; exact nofun), fun p a op hphase hb => ?stays,
      fun p a op hphase hb htag => hanswered p a op hphase hb ?locked, fun p a op off hphase hb htag hoff => ?handover,
      fun p a op hphase hb htag => ?command, fun p a op c i hphase hb htag => ?commit⟩
    case granted =>
      have hsame := port_withdrawPorts_untouched (b := b) (s := stormDropped b s) (p := p)
        (fun a' o' c i hk => by cases hphase.symm.trans hk) (fun a' o' hk => by cases hphase.symm.trans hk)
      rw [(hport p).1, hsame]
      exact hphase
    case stays =>
      have hsame := port_withdrawPorts_untouched (b := b) (s := stormDropped b s) (p := p)
        (fun a' o' c i hk => by cases hphase.symm.trans hk)
        (fun a' o' hk => by cases hphase.symm.trans hk; exact hb)
      rw [(hport p).1, hsame]
      exact hphase
    case locked =>
      obtain ⟨x, htag⟩ := htag
      rw [htag]
      exact nofun
    case handover =>
      obtain ⟨u, -, -, hend⟩ := withdrawPorts_withdrawn (s := stormDropped b s) hphase hb
      rw [(hport p).1, hend.port]
      exact endPortOp_handover u htag hoff
    case command =>
      obtain ⟨hidle, hans⟩ := hanswered p a op hphase hb fun off ho => by cases htag.symm.trans ho; rfl
      obtain ⟨u, hquiet, hsame, hend⟩ := withdrawPorts_withdrawn (s := stormDropped b s) hphase hb
      have hcommand : (departureEffects b s).command p = (acceptCommand p (beatData a 0) u).command p :=
        ((hport p).2.trans hend.command).trans (endPortOp_command u htag)
      have hbefore : u.command p = s.command p := hsame.command
      refine ⟨hidle, hans, fun hdev hstate => ?_, fun hstate => ?_⟩
      · have hdev' : u.device ≠ .loading := by rw [hquiet.touch.device]; exact hdev
        rw [hcommand, acceptCommand_idle (by rw [hbefore]; exact hstate) hdev']
        exact ⟨u.nextStamp, command_setCommand_same u p _⟩
      · rw [hcommand, acceptCommand_refused (by rw [hbefore]; exact hstate), (SamePort.raiseGlobal p p .cmdDone _).command,
          ← hbefore]
        exact command_setCommand_same u p _
    case commit =>
      obtain ⟨hidle, hans⟩ := hanswered p a op hphase hb (by rw [htag]; exact nofun)
      refine ⟨hidle, hans, fun a' o' hout hkept hplain => ?_⟩
      rw [(hport (otherPort p)).1]
      exact withdrawPorts_released (s := stormDropped b s) hphase hb htag hout hkept hplain
  case blocks =>
    obtain ⟨hcopy, hpass⟩ := departureEffects_copy b s
    obtain ⟨hcopy0, hpass0⟩ := withdrawPorts_copy b s
    obtain ⟨hmirror, hmirrorPass⟩ := departureEffects_mirror b s
    obtain ⟨hrequest, hlast, hbcb, hpassBefore⟩ := withdrawCopy_mirror b s
    obtain ⟨-, -, -, hstage⟩ := departureEffects_memory b s
    refine ⟨fun j hj hwait hb => ?active, fun j hj hwait hb => ?draining, fun h => ?noCopy, fun off hoff hb => ?waiting,
      fun h => ?noMirror, fun off => departureEffects_dirty, departureEffects_posted b s, hstage⟩
    case active =>
      rw [hcopy, hpass, withdrawCopy_active (by rw [hcopy0]; exact hj) hwait hb, ← hcopy0]
      exact ⟨rfl, rfl⟩
    case draining =>
      rw [hcopy, hpass, withdrawCopy_draining (by rw [hcopy0]; exact hj) hwait hb, ← hcopy0]
      exact ⟨rfl, rfl⟩
    case noCopy =>
      rw [hcopy, hpass, withdrawCopy_of_other (by rw [hcopy0]; exact h), hcopy0, hpass0]
      exact ⟨rfl, rfl⟩
    case waiting =>
      have hw := withdrawMirror_of_waiting (hrequest.trans hoff) (hbcb.trans hb)
      rw [hmirror, hmirrorPass, withdrawals, hw]
      exact ⟨rfl, (mem_insertOffset off off _).2 (.inl rfl), hlast, rfl⟩
    case noMirror =>
      have hw := withdrawMirror_of_other (b := b) (s := withdrawCopy b (withdrawPorts b (stormDropped b s)))
        (by rwa [hrequest, hbcb])
      rw [hmirror, hmirrorPass, withdrawals, hw]
      exact ⟨hrequest, hpassBefore⟩

end Sys2Proof.Proofs
end

section
/-! PROOF. What the words of the BCB show: a word laid out of fields from its low bits up shows each field's value at
its place; the layout of each mirrored word as a list of such fields (12.1, 12.2, 12.5). -/

namespace Sys2Proof.Machine

open Sys2Proof

/-! ## Words laid out of fields -/

/-- A field of a word: its lowest bit, its width and the number it shows. -/
structure Field where
  lo : Nat
  width : Nat
  value : Nat

/-- The field's number at its place. -/
def Field.placed (f : Field) : Nat := fieldAt f.lo f.width f.value

/-- The word a list of fields makes up. -/
def fieldWord (l : List Field) : Word := BitVec.ofNat 32 (l.map Field.placed).sum

/-- The fields stand in ascending order from bit `n` up, share no bit and end inside the word. -/
def laidFrom (n : Nat) : List Field → Bool
  | [] => n ≤ 32
  | f :: l => n ≤ f.lo && laidFrom (f.lo + f.width) l

/-- Proved by rewriting, not by computation: a proof by `rfl` would let the kernel count up to `2 ^ lo`. -/
theorem sum_placed_cons (lo w v : Nat) (l : List Field) :
    ((Field.mk lo w v :: l).map Field.placed).sum = fieldAt lo w v + (l.map Field.placed).sum := by
  rw [List.map_cons, List.sum_cons, Field.placed]

theorem sum_placed_nil : (([] : List Field).map Field.placed).sum = 0 := by
  rw [List.map_nil, List.sum_nil]

theorem Field.placed_add_le (f : Field) : f.placed + 2 ^ f.lo ≤ 2 ^ (f.lo + f.width) := by
  have hlt : f.value % 2 ^ f.width + 1 ≤ 2 ^ f.width := Nat.mod_lt _ (Nat.two_pow_pos _)
  calc f.placed + 2 ^ f.lo = (f.value % 2 ^ f.width + 1) * 2 ^ f.lo := (Nat.succ_mul _ _).symm
    _ ≤ 2 ^ f.width * 2 ^ f.lo := Nat.mul_le_mul_right _ hlt
    _ = 2 ^ (f.lo + f.width) := by rw [Nat.pow_add, Nat.mul_comm]

theorem laidFrom_cons {n : Nat} {f : Field} {l : List Field} (h : laidFrom n (f :: l) = true) :
    n ≤ f.lo ∧ laidFrom (f.lo + f.width) l = true := by
  simpa [laidFrom] using h

theorem laidFrom_le {n : Nat} {l : List Field} (h : laidFrom n l = true) : n ≤ 32 := by
  induction l generalizing n with
  | nil => simpa [laidFrom] using h
  | cons f l ih =>
    obtain ⟨hn, hl⟩ := laidFrom_cons h
    have := ih hl
    omega

theorem two_pow_dvd_sum {n : Nat} {l : List Field} (h : laidFrom n l = true) : 2 ^ n ∣ (l.map Field.placed).sum := by
  induction l generalizing n with
  | nil => exact Nat.dvd_zero _
  | cons f l ih =>
    obtain ⟨hn, hl⟩ := laidFrom_cons h
    rw [List.map_cons, List.sum_cons]
    exact Nat.dvd_add (Nat.dvd_mul_left_of_dvd (Nat.pow_dvd_pow 2 hn) _)
      (Nat.dvd_trans (Nat.pow_dvd_pow 2 (by omega)) (ih hl))

theorem sum_add_two_pow_le {n : Nat} {l : List Field} (h : laidFrom n l = true) :
    (l.map Field.placed).sum + 2 ^ n ≤ 2 ^ 32 := by
  induction l generalizing n with
  | nil =>
    rw [List.map_nil, List.sum_nil, Nat.zero_add]
    exact Nat.pow_le_pow_right (by decide) (laidFrom_le h)
  | cons f l ih =>
    obtain ⟨hn, hl⟩ := laidFrom_cons h
    have hrest := ih hl
    have hf := f.placed_add_le
    have hpow : 2 ^ n ≤ 2 ^ f.lo := Nat.pow_le_pow_right (by decide) hn
    rw [List.map_cons, List.sum_cons]
    omega

theorem toNat_fieldWord {n : Nat} {l : List Field} (h : laidFrom n l = true) :
    (fieldWord l).toNat = (l.map Field.placed).sum := by
  have hle := sum_add_two_pow_le h
  have hpos := Nat.two_pow_pos n
  exact BitVec.toNat_ofNat _ _ ▸ Nat.mod_eq_of_lt (by omega)

theorem le_lo_of_mem {n : Nat} {l : List Field} (h : laidFrom n l = true) {f : Field} (hf : f ∈ l) : n ≤ f.lo := by
  induction l generalizing n with
  | nil => cases hf
  | cons g l ih =>
    obtain ⟨hn, hl⟩ := laidFrom_cons h
    rcases List.mem_cons.1 hf with rfl | hf
    · exact hn
    · have := ih hl hf
      omega

/-- The fields above a field are cut off by the modulus, those below it by the shift. -/
theorem sum_div_mod_of_mem {n : Nat} {l : List Field} (h : laidFrom n l = true) {f : Field} (hf : f ∈ l) :
    (l.map Field.placed).sum / 2 ^ f.lo % 2 ^ f.width = f.value % 2 ^ f.width := by
  induction l generalizing n with
  | nil => cases hf
  | cons g l ih =>
    obtain ⟨hn, hl⟩ := laidFrom_cons h
    rw [List.map_cons, List.sum_cons]
    rcases List.mem_cons.1 hf with rfl | hf
    · obtain ⟨q, hq⟩ := two_pow_dvd_sum hl
      have hsum : f.placed + (l.map Field.placed).sum = (f.value % 2 ^ f.width + 2 ^ f.width * q) * 2 ^ f.lo := by
        rw [hq, Field.placed, fieldAt, Nat.add_mul, Nat.pow_add]
        refine congrArg (Nat.add _) ?_
        ac_rfl
      rw [hsum, Nat.mul_div_cancel _ (Nat.two_pow_pos _), Nat.add_mul_mod_self_left, Nat.mod_mod]
    · obtain ⟨d, hd⟩ := Nat.exists_eq_add_of_le (le_lo_of_mem hl hf)
      obtain ⟨q, hq⟩ := two_pow_dvd_sum hl
      have hg : g.placed < 2 ^ (g.lo + g.width) :=
        Nat.lt_of_lt_of_le (Nat.lt_add_of_pos_right (Nat.two_pow_pos _)) g.placed_add_le
      have hdrop : (g.placed + (l.map Field.placed).sum) / 2 ^ f.lo = (l.map Field.placed).sum / 2 ^ f.lo := by
        rw [hd, Nat.pow_add, ← Nat.div_div_eq_div_mul, ← Nat.div_div_eq_div_mul, hq,
          Nat.add_mul_div_left _ _ (Nat.two_pow_pos _), Nat.div_eq_of_lt hg, Nat.zero_add,
          Nat.mul_div_cancel_left _ (Nat.two_pow_pos _)]
      rw [hdrop]
      exact ih hl hf

/-- Field `i` of a word shows its number. -/
theorem bitsOf_fieldWord {l : List Field} {lo w v : Nat} (h : laidFrom 0 l = true) (i : Nat)
    (hi : l[i]? = some ⟨lo, w, v⟩) (hv : v < 2 ^ w) : bitsOf (fieldWord l) lo w = v := by
  unfold bitsOf
  rw [toNat_fieldWord h]
  exact (sum_div_mod_of_mem h (List.mem_of_getElem? hi)).trans (Nat.mod_eq_of_lt hv)

/-- A part of a field is the same part of the field's number. -/
theorem bitsOf_part (x : Word) (lo a w b : Nat) (h : a + b ≤ w) :
    bitsOf x (lo + a) b = bitsOf x lo w / 2 ^ a % 2 ^ b := by
  obtain ⟨d, rfl⟩ := Nat.exists_eq_add_of_le h
  unfold bitsOf
  rw [Nat.pow_add 2 lo a, ← Nat.div_div_eq_div_mul, Nat.add_assoc, Nat.pow_add 2 a, Nat.mod_mul_right_div_self,
    Nat.pow_add 2 b, Nat.mod_mul_right_mod]

/-! ## The layouts of the mirrored words -/

def resetCauseNat (c : ResetCause) : Nat := if c = .pin then 0 else 1

def deviceStateFields (s : State) : List Field :=
  [⟨0, 2, deviceNat s.device⟩, ⟨4, 4, loadOutcomeNat s.loadOutcome⟩, ⟨8, 4, s.failedChannel.val⟩,
    ⟨12, 1, resetCauseNat s.resetCause⟩]

theorem deviceStateWord_eq (s : State) : deviceStateWord s = fieldWord (deviceStateFields s) := by
  unfold deviceStateWord fieldWord deviceStateFields resetCauseNat
  refine congrArg (BitVec.ofNat 32) ?_
  cases s.resetCause <;>
    simp only [sum_placed_cons, sum_placed_nil, Nat.add_zero, Nat.add_assoc, if_true, if_false, reduceCtorEq]

def resultFields (c : PortCommand) : List Field :=
  [⟨0, 8, commandCode c.echo⟩, ⟨8, 4, commandArgA c.echo % 16⟩, ⟨12, 4, commandArgB c.echo % 16⟩,
    ⟨16, 3, commandOutcomeNat c.outcome⟩, ⟨20, 1, bitNat c.refused.isSome⟩, ⟨24, 8, c.refused.elim 0 (·.toNat)⟩]

theorem fieldAt_mod_sixteen (lo v : Nat) : fieldAt lo 4 (v % 16) = fieldAt lo 4 v :=
  congrArg (· * 2 ^ lo) (Nat.mod_mod v _)

theorem fieldAt_zero (lo w : Nat) : fieldAt lo w 0 = 0 := by
  rw [fieldAt, Nat.zero_mod, Nat.zero_mul]

theorem resultWord_eq (c : PortCommand) : resultWord c = fieldWord (resultFields c) := by
  unfold resultWord fieldWord resultFields
  refine congrArg (BitVec.ofNat 32) ?_
  rw [sum_placed_cons, sum_placed_cons, sum_placed_cons, sum_placed_cons, sum_placed_cons, sum_placed_cons,
    sum_placed_nil, fieldAt_mod_sixteen, fieldAt_mod_sixteen, Nat.add_zero, ← Nat.add_assoc, ← Nat.add_assoc,
    ← Nat.add_assoc]
  refine congrArg (Nat.add _) ?_
  cases c.refused with
  | none =>
    change 0 = fieldAt 20 1 0 + fieldAt 24 8 0
    rw [fieldAt_zero, fieldAt_zero]
  | some code => rfl

def globalFlagFields (s : State) (l : Port) : List Field :=
  globalBits.map fun n => ⟨n.val, 1, stageNat (s.globalStage l n)⟩

theorem globalFlagWord_eq (s : State) (l : Port) : globalFlagWord s l = fieldWord (globalFlagFields s l) := by
  rw [fieldWord, globalFlagFields, List.map_map]
  rfl

def channelFlagFields (s : State) (c : ChanId) : List Field :=
  channelBits.map fun n => ⟨n.val, 1, stageNat (s.channelStage c n)⟩

theorem channelFlagWord_eq (s : State) (c : ChanId) : channelFlagWord s c = fieldWord (channelFlagFields s c) := by
  rw [fieldWord, channelFlagFields, List.map_map]
  rfl

/-- Two counters of 16 bits in a word. -/
def counterFields (a b : BitVec 16) : List Field := [⟨0, 16, a.toNat⟩, ⟨16, 16, b.toNat⟩]

theorem ofNat_counters (a b : BitVec 16) :
    BitVec.ofNat 32 (fieldAt 0 16 a.toNat + fieldAt 16 16 b.toNat) = fieldWord (counterFields a b) := by
  refine congrArg (BitVec.ofNat 32) ?_
  simp only [counterFields, sum_placed_cons, sum_placed_nil, Nat.add_zero]

/-- One field that starts at bit 0, with the capture's or the position's mark in bit 31. -/
def markedFields (v : Nat) (mark : Bool) : List Field := [⟨0, 24, v⟩, ⟨31, 1, bitNat mark⟩]

def ueFields (s : State) : List Field := bankIds.map fun b => ⟨8 * b.val, 8, (s.bank b).ueCount.toNat⟩

theorem ueWord_eq (s : State) : ueWord s = fieldWord (ueFields s) := by
  rw [fieldWord, ueFields, List.map_map]
  rfl

def portFaultFields (s : State) : List Field :=
  [⟨0, 8, (s.port .port0).faultCount.toNat⟩, ⟨8, 8, (s.port .port1).faultCount.toNat⟩]

theorem portFaultWord_eq (s : State) : portFaultWord s = fieldWord (portFaultFields s) := by
  refine congrArg (BitVec.ofNat 32) ?_
  simp only [portFaultFields, sum_placed_cons, sum_placed_nil, Nat.add_zero, State.port, Pair.get]

/-- The word that holds a single field from bit 0 up. -/
theorem ofNat_single (w v : Nat) : BitVec.ofNat 32 (fieldAt 0 w v) = fieldWord [⟨0, w, v⟩] := by
  refine congrArg (BitVec.ofNat 32) ?_
  simp only [sum_placed_cons, sum_placed_nil, Nat.add_zero]

theorem ofNat_marked (v : Nat) : BitVec.ofNat 32 (fieldAt 0 24 v + fieldAt 31 1 1) = fieldWord (markedFields v true) := by
  refine congrArg (BitVec.ofNat 32) ?_
  simp only [markedFields, sum_placed_cons, sum_placed_nil, Nat.add_zero, bitNat, if_true]

theorem ofNat_unmarked (v : Nat) : BitVec.ofNat 32 (fieldAt 0 24 v) = fieldWord (markedFields v false) := by
  refine congrArg (BitVec.ofNat 32) ?_
  simp only [markedFields, sum_placed_cons, sum_placed_nil, Nat.add_zero, bitNat, fieldAt_zero, Bool.false_eq_true, if_false]

def portFaultDetailFields (r : PortFault) : List Field :=
  [⟨0, 1, bitNat r.write⟩, ⟨1, 3, r.size.val⟩, ⟨4, 4, r.burst⟩, ⟨8, 1, bitNat r.locked⟩, ⟨16, 4, faultNat r.code⟩]

theorem portCaptureWord_detail {c : Capture PortFault} {r : PortFault} (h : c.record = some r) :
    portCaptureWord c 1 = fieldWord (portFaultDetailFields r) := by
  simp only [portCaptureWord, h]
  refine congrArg (BitVec.ofNat 32) ?_
  simp only [portFaultDetailFields, sum_placed_cons, sum_placed_nil, Nat.add_zero, Nat.add_assoc]

def memFaultDetailFields (r : MemFault) : List Field := [⟨0, 2, r.bank.val⟩, ⟨4, 3, sourceNat r.source⟩]

theorem memCaptureWord_detail {c : Capture MemFault} {r : MemFault} (h : c.record = some r) :
    memCaptureWord c 1 = fieldWord (memFaultDetailFields r) := by
  simp only [memCaptureWord, h]
  refine congrArg (BitVec.ofNat 32) ?_
  simp only [memFaultDetailFields, sum_placed_cons, sum_placed_nil, Nat.add_zero]

def bankStatusFields (b : Bank) : List Field :=
  [⟨0, 3, serviceNat b.service⟩, ⟨4, 4, b.retries.val⟩, ⟨8, 1, bitNat b.rfull⟩, ⟨12, 2, causeNat b.cause⟩]

theorem bankStatusWord_zero (b : Bank) : bankStatusWord b 0 = fieldWord (bankStatusFields b) := by
  refine congrArg (BitVec.ofNat 32) ?_
  simp only [bankStatusFields, sum_placed_cons, sum_placed_nil, Nat.add_zero, Nat.add_assoc]

/-- Word 0 of the scrub status record: the RUNNING bit and the phase. -/
def scrubFields (running : Bool) (phase : Nat) : List Field := [⟨0, 1, bitNat running⟩, ⟨4, 2, phase⟩]

theorem scrubStatusWord_stopped {x : Scrubber} (h : x.state = .stopped) :
    scrubStatusWord x 0 = fieldWord (scrubFields false Config.stoppedScrubPhase.toNat) := by
  simp only [scrubStatusWord, h]
  refine congrArg (BitVec.ofNat 32) ?_
  simp only [scrubFields, sum_placed_cons, sum_placed_nil, Nat.add_zero, bitNat, fieldAt_zero, Bool.false_eq_true, if_false, Nat.zero_add]

theorem scrubStatusWord_running {x : Scrubber} {ph : ScrubPhase} (h : x.state = .running ph) :
    scrubStatusWord x 0 = fieldWord (scrubFields true (scrubPhaseNat ph)) := by
  simp only [scrubStatusWord, h]
  refine congrArg (BitVec.ofNat 32) ?_
  simp only [scrubFields, sum_placed_cons, sum_placed_nil, Nat.add_zero, bitNat, if_true]

def copyStatusFields (e : CopyEngine) : List Field :=
  [⟨0, 2, engineStateNat e.state⟩, ⟨3, 1, bitNat e.state.job.isSome⟩, ⟨4, 4, e.state.job.elim 0 (·.channel.val)⟩,
    ⟨8, 4, e.state.job.elim 0 (·.source.val)⟩, ⟨12, 4, e.state.job.elim 0 (·.target.val)⟩,
    ⟨16, 5, e.queue.length⟩]

theorem copyStatusWord_zero (e : CopyEngine) : copyStatusWord e 0 = fieldWord (copyStatusFields e) := by
  unfold copyStatusWord fieldWord copyStatusFields
  refine congrArg (BitVec.ofNat 32) ?_
  cases e.state.job <;>
    simp only [sum_placed_cons, sum_placed_nil, fieldAt_zero, Nat.add_zero, Nat.zero_add, Nat.add_assoc, Option.elim,
      bitNat, Option.isSome, Bool.false_eq_true, if_true, if_false]

/-- Eight fields of 4 bits. -/
def nibbleFields (v : Nat → Nat) : List Field := (List.range 8).map fun i => ⟨4 * i, 4, v i⟩

theorem ofNat_nibbles (v : Nat → Nat) :
    BitVec.ofNat 32 ((List.range 8).map (fun i => fieldAt (4 * i) 4 (v i))).sum = fieldWord (nibbleFields v) := by
  rw [fieldWord, nibbleFields, List.map_map]
  rfl

theorem bitsOf_nibble (v : Nat → Nat) (i : Fin 8) (hv : v i.val < 2 ^ 4) :
    bitsOf (fieldWord (nibbleFields v)) (4 * i.val) 4 = v i.val :=
  bitsOf_fieldWord rfl i.val (by simp [nibbleFields, i.isLt]) hv

def slotFields (ch : Channel) : List Field := slotIds.map fun i => ⟨4 * i.val, 4, slotFieldNat ch i⟩

theorem channelStatusWord_slots (ch : Channel) : channelStatusWord ch 7 = fieldWord (slotFields ch) := by
  rw [fieldWord, slotFields, List.map_map]
  rfl

def channelStateFields (ch : Channel) : List Field :=
  [⟨0, 1, 1⟩, ⟨1, 1, modeNat ch.config.mode⟩, ⟨4, 4, ch.config.depth⟩, ⟨8, 2, channelStateNat ch.state⟩,
    ⟨12, 4, optSlotNat ch.newest⟩, ⟨16, 4, heldNat ch.held⟩, ⟨20, 4, optSlotNat ch.filling⟩,
    ⟨24, 2, channelCopyNat ch.copy⟩, ⟨28, 4, ch.committed.length⟩]

theorem channelStatusWord_zero (ch : Channel) : channelStatusWord ch 0 = fieldWord (channelStateFields ch) := by
  refine congrArg (BitVec.ofNat 32) ?_
  simp only [channelStateFields, sum_placed_cons, sum_placed_nil, Nat.add_zero, Nat.add_assoc]

def channelCopyFields (ch : Channel) : List Field :=
  [⟨0, 13, copyNextNat ch.copy⟩, ⟨16, 1, bitNat ch.lastCommit.isSome⟩]

theorem channelStatusWord_three (ch : Channel) : channelStatusWord ch 3 = fieldWord (channelCopyFields ch) := by
  refine congrArg (BitVec.ofNat 32) ?_
  simp only [channelCopyFields, sum_placed_cons, sum_placed_nil, Nat.add_zero]

end Sys2Proof.Machine
end

section
/-! PROOF. Which word of the state each offset of the BCB shows, and what the channel records and the captures show
word by word (12.1, 12.2). -/

namespace Sys2Proof.Machine

open Sys2Proof

/-! ## The numbers of the encodings fit their fields -/

theorem deviceNat_lt (x : Device) : deviceNat x < 2 ^ 2 := by cases x <;> decide

theorem loadOutcomeNat_lt (x : LoadOutcome) : loadOutcomeNat x < 2 ^ 4 := by cases x <;> decide

theorem resetCauseNat_lt (x : ResetCause) : resetCauseNat x < 2 ^ 1 := by cases x <;> decide

theorem commandOutcomeNat_lt (x : CommandOutcome) : commandOutcomeNat x < 2 ^ 3 := by cases x <;> decide

theorem faultNat_lt (x : FaultCode) : faultNat x < 2 ^ 4 := by cases x <;> decide

theorem sourceNat_lt (x : Source) : sourceNat x < 2 ^ 3 := by cases x <;> decide

theorem serviceNat_lt (x : Service) : serviceNat x < 2 ^ 3 := by cases x <;> decide

theorem causeNat_lt (x : FaultCause) : causeNat x < 2 ^ 2 := by cases x <;> decide

theorem scrubPhaseNat_lt (x : ScrubPhase) : scrubPhaseNat x < 2 ^ 2 := by cases x <;> decide

theorem modeNat_lt (x : Mode) : modeNat x < 2 ^ 1 := by cases x <;> decide

theorem channelStateNat_lt (x : ChannelState) : channelStateNat x < 2 ^ 2 := by cases x <;> decide

theorem slotStateNat_lt (x : SlotState) : slotStateNat x < 2 ^ 2 := by cases x <;> decide

theorem stageNat_lt (x : Stage) : stageNat x < 2 ^ 1 := by cases x <;> decide

theorem bitNat_lt (x : Bool) : bitNat x < 2 ^ 1 := by cases x <;> decide

theorem channelCopyNat_lt (x : ChannelCopy) : channelCopyNat x < 2 ^ 2 := by
  cases x <;> simp [channelCopyNat]

theorem engineStateNat_lt (x : EngineState) : engineStateNat x < 2 ^ 2 := by
  cases x <;> simp [engineStateNat]

theorem optSlotNat_lt (x : Option (Fin 8)) : optSlotNat x < 2 ^ 4 := by
  cases x with
  | none => decide
  | some i => exact Nat.lt_trans i.isLt (by decide)

theorem heldNat_lt (x : Held) : heldNat x < 2 ^ 4 := by
  cases x with
  | slot i => exact Nat.lt_trans i.isLt (by decide)
  | substitute => decide
  | none => decide

theorem queueEntryNat_lt (q : List ChanId) (i : Nat) : queueEntryNat q i < 2 ^ 4 := by
  unfold queueEntryNat
  cases q[i]? with
  | none => exact Nat.two_pow_pos 4
  | some c => exact c.isLt

theorem committedEntryNat_lt (q : List (Fin 8)) (i : Nat) : committedEntryNat q i < 2 ^ 4 := by
  unfold committedEntryNat
  cases q[i]? with
  | none => exact Nat.two_pow_pos 4
  | some c => exact Nat.lt_trans c.isLt (by decide)

/-! ## Flag words and channel records -/

theorem stageNat_eq (g : Stage) : stageNat g = if g = .clear then 0 else 1 := by cases g <;> rfl

theorem getElem?_map_of_some {α β : Type} {l : List α} {i : Nat} {x : α} (f : α → β) (h : l[i]? = some x) :
    (l.map f)[i]? = some (f x) := by
  rw [List.getElem?_map, h, Option.map_some]

theorem bitsOf_globalFlagWord (s : State) (l : Port) (n : Fin 9) :
    bitsOf (globalFlagWord s l) n.val 1 = if s.globalStage l n = .clear then 0 else 1 := by
  have hn : ∀ n : Fin 9, globalBits[n.val]? = some n := by decide
  rw [globalFlagWord_eq, ← stageNat_eq]
  exact bitsOf_fieldWord rfl n.val (getElem?_map_of_some _ (hn n)) (stageNat_lt _)

theorem bitsOf_channelFlagWord (s : State) (c : ChanId) (n : Fin 7) :
    bitsOf (channelFlagWord s c) n.val 1 = if s.channelStage c n = .clear then 0 else 1 := by
  have hn : ∀ n : Fin 7, channelBits[n.val]? = some n := by decide
  rw [channelFlagWord_eq, ← stageNat_eq]
  exact bitsOf_fieldWord rfl n.val (getElem?_map_of_some _ (hn n)) (stageNat_lt _)

theorem bitsOf_ueWord (s : State) (b : BankId) :
    bitsOf (ueWord s) (8 * b.val) 8 = (s.bank b).ueCount.toNat := by
  have hb : ∀ b : BankId, bankIds[b.val]? = some b := by decide
  rw [ueWord_eq]
  exact bitsOf_fieldWord rfl b.val (getElem?_map_of_some _ (hb b)) (s.bank b).ueCount.isLt

/-- The field of a slot in word 7 of a channel record: state, retired and valid (12.2). -/
def slotStateFields (ch : Channel) (i : Fin 8) : List Field :=
  [⟨0, 2, slotStateNat (ch.slot i).state⟩, ⟨2, 1, bitNat (ch.slot i).retired⟩,
    ⟨3, 1, bitNat (ch.bankUp && !(ch.slot i).retired)⟩]

theorem slotFieldNat_of_lt {ch : Channel} {i : Fin 8} (h : i.val < ch.config.depth) :
    slotFieldNat ch i = (fieldWord (slotStateFields ch i)).toNat := by
  rw [toNat_fieldWord (n := 0) rfl, slotFieldNat, if_pos h, slotStateFields]
  simp only [sum_placed_cons, sum_placed_nil, Nat.add_zero, Nat.add_assoc]
  rfl

theorem slotFieldNat_of_le {ch : Channel} {i : Fin 8} (h : ch.config.depth ≤ i.val) : slotFieldNat ch i = 0 :=
  if_neg (Nat.not_lt.2 h)

theorem slotFieldNat_lt (ch : Channel) (i : Fin 8) : slotFieldNat ch i < 2 ^ 4 := by
  unfold slotFieldNat
  split
  · have hstate := slotStateNat_lt (ch.slots.get i).state
    have hretired := bitNat_lt (ch.slots.get i).retired
    have hvalid := bitNat_lt (ch.valid i)
    simp only [fieldAt]
    omega
  · exact Nat.two_pow_pos 4

theorem bitsOf_slotField (ch : Channel) (i : Fin 8) :
    bitsOf (channelStatusWord ch 7) (4 * i.val) 4 = slotFieldNat ch i := by
  have hi : ∀ i : Fin 8, slotIds[i.val]? = some i := by decide
  rw [channelStatusWord_slots]
  exact bitsOf_fieldWord rfl i.val (getElem?_map_of_some _ (hi i)) (slotFieldNat_lt ch i)

/-- A part of the field of a slot that exists. -/
theorem bitsOf_slotField_part {ch : Channel} {i : Fin 8} (h : i.val < ch.config.depth) {a w v : Nat} (k : Nat)
    (hk : (slotStateFields ch i)[k]? = some ⟨a, w, v⟩) (hv : v < 2 ^ w) (ha : a + w ≤ 4) :
    bitsOf (channelStatusWord ch 7) (4 * i.val + a) w = v := by
  rw [bitsOf_part _ _ _ 4 _ ha, bitsOf_slotField, slotFieldNat_of_lt h]
  exact bitsOf_fieldWord rfl k hk hv

theorem channelStatusWord_frame (ch : Channel) (i : Fin 8) :
    channelStatusWord ch (8 + i.val) = if i.val < ch.config.depth then optCount (ch.slot i).frame else 0 := by
  match i with
  | 0 | 1 | 2 | 3 | 4 | 5 | 6 | 7 => rfl

/-! ## The word at each offset -/

theorem mirrorWord_port (s : State) (p : Port) :
    mirrorWord s (4 + portNat p) = resultWord (s.command p)
    ∧ mirrorWord s (6 + portNat p) = s.globalMask.get p
    ∧ mirrorWord s (8 + portNat p) = s.channelMask.get p
    ∧ mirrorWord s (14 + portNat p) = globalFlagWord s p := by
  cases p <;> exact ⟨rfl, rfl, rfl, rfl⟩

theorem mirrorWord_channelFlag (s : State) (c : ChanId) : mirrorWord s (16 + c.val) = channelFlagWord s c := by
  have hid : ∀ h, (⟨16 + c.val - 16, h⟩ : ChanId) = c := fun _ => Fin.ext (Nat.add_sub_cancel_left ..)
  unfold mirrorWord
  rw [dif_neg (by omega), dif_neg (by omega), dif_pos (by omega), hid]

theorem mirrorWord_portCapture (s : State) (p : Port) (k : Fin 4) :
    mirrorWord s (68 + 4 * portNat p + k.val) = portCaptureWord (s.port p).capture k.val := by
  cases p <;>
    match k with
    | 0 | 1 | 2 | 3 => rfl

theorem mirrorWord_memCapture (s : State) (k : Fin 4) :
    mirrorWord s (76 + k.val) = memCaptureWord s.memCapture k.val := by
  match k with
  | 0 | 1 | 2 | 3 => rfl

theorem mirrorWord_portCapture_words (s : State) (p : Port) :
    mirrorWord s (68 + 4 * portNat p) = portCaptureWord (s.port p).capture 0
    ∧ mirrorWord s (69 + 4 * portNat p) = portCaptureWord (s.port p).capture 1
    ∧ mirrorWord s (70 + 4 * portNat p) = portCaptureWord (s.port p).capture 2
    ∧ mirrorWord s (71 + 4 * portNat p) = portCaptureWord (s.port p).capture 3 := by
  cases p <;> exact ⟨rfl, rfl, rfl, rfl⟩

theorem mirrorWord_memCapture_words (s : State) :
    mirrorWord s 76 = memCaptureWord s.memCapture 0 ∧ mirrorWord s 77 = memCaptureWord s.memCapture 1
    ∧ mirrorWord s 78 = memCaptureWord s.memCapture 2 ∧ mirrorWord s 79 = memCaptureWord s.memCapture 3 :=
  ⟨rfl, rfl, rfl, rfl⟩

theorem mirrorWord_bankStatus (s : State) (b : BankId) :
    mirrorWord s (80 + 2 * b.val) = bankStatusWord (s.bank b) 0
    ∧ mirrorWord s (81 + 2 * b.val) = bankStatusWord (s.bank b) 1 := by
  match b with
  | 0 | 1 | 2 | 3 => exact ⟨rfl, rfl⟩

theorem statusRecord_channel (c : ChanId) (k : Fin 16) (h : (128 + 16 * c.val + k.val - 128) / 16 < 16) :
    (⟨(128 + 16 * c.val + k.val - 128) / 16, h⟩ : ChanId) = c :=
  Fin.ext (by dsimp only; omega)

theorem timeRecord_channel (c : ChanId) (k : Fin 8) (h : (384 + 8 * c.val + k.val - 384) / 8 < 16) :
    (⟨(384 + 8 * c.val + k.val - 384) / 8, h⟩ : ChanId) = c :=
  Fin.ext (by dsimp only; omega)

theorem mirrorWord_channel {s : State} {c : ChanId} (k : Fin 16) {ch : Channel} (h : s.chan c = some ch) :
    mirrorWord s (128 + 16 * c.val + k.val) = channelStatusWord ch k.val := by
  have hword : (128 + 16 * c.val + k.val - 128) % 16 = k.val := by omega
  unfold mirrorWord
  rw [dif_pos (by omega), statusRecord_channel c k, hword]
  unfold State.chan at h
  rw [h]

theorem mirrorWord_noChannel {s : State} {c : ChanId} (k : Fin 16) (h : s.chan c = none) :
    mirrorWord s (128 + 16 * c.val + k.val) = 0 := by
  unfold mirrorWord
  rw [dif_pos (by omega), statusRecord_channel c k]
  unfold State.chan at h
  rw [h]

theorem mirrorWord_channelTime {s : State} {c : ChanId} (k : Fin 8) {ch : Channel} (h : s.chan c = some ch) :
    mirrorWord s (384 + 8 * c.val + k.val) = channelTimeWord ch k := by
  have hword : ∀ h, (⟨(384 + 8 * c.val + k.val - 384) % 8, h⟩ : Fin 8) = k :=
    fun _ => Fin.ext (by dsimp only; omega)
  unfold mirrorWord
  rw [dif_neg (by omega), dif_pos (by omega), timeRecord_channel c k]
  unfold State.chan at h
  simp only [h, hword]

theorem mirrorWord_noChannelTime {s : State} {c : ChanId} (k : Fin 8) (h : s.chan c = none) :
    mirrorWord s (384 + 8 * c.val + k.val) = 0 := by
  unfold mirrorWord
  rw [dif_neg (by omega), dif_pos (by omega), timeRecord_channel c k]
  unfold State.chan at h
  rw [h]

end Sys2Proof.Machine
end

section
/-! PROOF. What every BCB word shows (12.1, 12.2, 12.5). -/

namespace Sys2Proof.Machine

open Sys2Proof

/-! ## Captures and status records, word by word -/

theorem portCaptureWord_of_none {c : Capture PortFault} (h : c.record = none) (k : Nat) : portCaptureWord c k = 0 := by
  rw [portCaptureWord, h]

theorem portCaptureWord_of_some {c : Capture PortFault} {r : PortFault} (h : c.record = some r) :
    portCaptureWord c 0 = fieldWord (markedFields r.addr.toNat true)
    ∧ portCaptureWord c 1 = fieldWord (portFaultDetailFields r)
    ∧ portCaptureWord c 2 = r.time
    ∧ portCaptureWord c 3 = fieldWord [⟨0, 8, c.overflow.toNat⟩] := by
  rw [← portCaptureWord_detail h, ← ofNat_marked, ← ofNat_single]
  simp only [portCaptureWord, h, and_self]

theorem memCaptureWord_of_none {c : Capture MemFault} (h : c.record = none) (k : Nat) : memCaptureWord c k = 0 := by
  rw [memCaptureWord, h]

theorem memCaptureWord_of_some {c : Capture MemFault} {r : MemFault} (h : c.record = some r) :
    memCaptureWord c 0 = fieldWord (markedFields r.addr true)
    ∧ memCaptureWord c 1 = fieldWord (memFaultDetailFields r)
    ∧ memCaptureWord c 2 = r.time
    ∧ memCaptureWord c 3 = fieldWord [⟨0, 8, c.overflow.toNat⟩] := by
  rw [← memCaptureWord_detail h, ← ofNat_marked, ← ofNat_single]
  simp only [memCaptureWord, h, and_self]

theorem bankStatusWord_one (b : Bank) :
    bankStatusWord b 1 = if b.cause = .none then 0 else optCount b.faultTime := by
  rw [bankStatusWord, if_neg Nat.one_ne_zero]

theorem scrubStatusWord_at {x : Scrubber} {a : Nat} (h : x.position = some a) :
    scrubStatusWord x 1 = fieldWord (markedFields a false) := by
  rw [← ofNat_unmarked]
  simp only [scrubStatusWord, h]

theorem scrubStatusWord_nowhere {x : Scrubber} (h : x.position = none) :
    scrubStatusWord x 1 = fieldWord (markedFields Config.absentScrubPosition.toNat true) := by
  rw [← ofNat_marked]
  simp only [scrubStatusWord, h]

theorem bitsOf_scrubRunning (x : Scrubber) :
    bitsOf (scrubStatusWord x 0) 0 1 = if x.state = .stopped then 0 else 1 := by
  cases h : x.state with
  | stopped =>
    rw [scrubStatusWord_stopped h, if_pos rfl]
    exact bitsOf_fieldWord rfl 0 rfl (bitNat_lt false)
  | running ph =>
    rw [scrubStatusWord_running h, if_neg nofun]
    exact bitsOf_fieldWord rfl 0 rfl (bitNat_lt true)

theorem bitsOf_scrubPosition_mark (x : Scrubber) :
    bitsOf (scrubStatusWord x 1) 31 1 = if x.position = none then 1 else 0 := by
  cases h : x.position with
  | none =>
    rw [scrubStatusWord_nowhere h, if_pos rfl]
    exact bitsOf_fieldWord rfl 1 rfl (bitNat_lt true)
  | some a =>
    rw [scrubStatusWord_at h, if_neg nofun]
    exact bitsOf_fieldWord rfl 1 rfl (bitNat_lt false)

/-- Bits 4 to 15 of a word that shows no job: three fields of zero (R85). -/
theorem bitsOf_copyStatus_noJob {e : CopyEngine} (h : e.state.job = none) :
    bitsOf (copyStatusWord e 0) 3 1 = 0 ∧ bitsOf (copyStatusWord e 0) 4 12 = 0 := by
  have hword : copyStatusWord e 0
      = fieldWord [⟨0, 2, engineStateNat e.state⟩, ⟨3, 1, 0⟩, ⟨4, 12, 0⟩, ⟨16, 5, e.queue.length⟩] := by
    simp only [copyStatusWord_zero, copyStatusFields, h, fieldWord, sum_placed_cons, fieldAt_zero, Option.elim,
      Option.isSome, bitNat, Bool.false_eq_true, if_false, Nat.zero_add]
  rw [hword]
  exact ⟨bitsOf_fieldWord rfl 1 rfl (by decide), bitsOf_fieldWord rfl 2 rfl (by decide)⟩

theorem bitsOf_copyStatus_job {e : CopyEngine} {j : CopyJob} (h : e.state.job = some j) :
    bitsOf (copyStatusWord e 0) 3 1 = 1 ∧ bitsOf (copyStatusWord e 0) 4 4 = j.channel.val
    ∧ bitsOf (copyStatusWord e 0) 8 4 = j.source.val ∧ bitsOf (copyStatusWord e 0) 12 4 = j.target.val := by
  rw [copyStatusWord_zero, copyStatusFields, h]
  exact ⟨bitsOf_fieldWord rfl 1 rfl (bitNat_lt true), bitsOf_fieldWord rfl 2 rfl j.channel.isLt,
    bitsOf_fieldWord rfl 3 rfl (Nat.lt_trans j.source.isLt (by decide)),
    bitsOf_fieldWord rfl 4 rfl (Nat.lt_trans j.target.isLt (by decide))⟩

theorem mirrorWord_openOffset (s : State) (off : Nat)
    (h : off = 2 ∨ off = 3 ∨ (10 ≤ off ∧ off ≤ 13) ∨ (32 ≤ off ∧ off ≤ 63) ∨ off = 91 ∨ (95 ≤ off ∧ off ≤ 127)
      ∨ 512 ≤ off) : mirrorWord s off = 0 := by
  refine mirrorWord_unmirrored s off fun hmem => ?_
  simp only [mirroredOffsets, List.mem_append, List.mem_range'_1, List.mem_cons, List.not_mem_nil, or_false] at hmem
  omega

end Sys2Proof.Machine

namespace Sys2Proof.Proofs

open Sys2Proof Sys2Proof.Machine

/-- Settles O9: each mirrored word is a list of fields that share no bit, and a field shows its number whenever the
number fits. -/
theorem mirrorWordLayouts : Obligations.MirrorWordLayouts := by
  unfold Obligations.MirrorWordLayouts
  refine ⟨fun s => ?single, fun s p => ?result, fun s => ⟨fun l n => ?globalFlags, fun c n => ?channelFlags⟩,
    fun s p k hnone => ?emptyPort, fun s p r hr hburst => ?portCapture, fun s => ⟨fun k hnone => ?emptyMem,
      fun r hr haddr => ?memCapture⟩, fun s b => ?bank, fun s => ?scrub, fun s hlen => ?copy, fun s c hnone => ?noChannel,
    fun s c ch hch => ?channel, fun ch hdepth hlen => ?channelState, fun ch => ?channelWords, mirrorWord_openOffset,
    rfl, rfl, rfl, rfl, rfl, rfl, rfl, rfl, rfl, rfl, fun _ => rfl, fun _ _ => rfl, fun _ _ => ⟨rfl, rfl, rfl, rfl⟩, rfl,
    rfl, rfl, rfl, fun _ => ⟨rfl, rfl, rfl⟩, fun _ _ _ => rfl⟩
  case single =>
    have h0 : mirrorWord s 0 = fieldWord (deviceStateFields s) := deviceStateWord_eq s
    have h64 : mirrorWord s 64 = fieldWord (counterFields s.ecc.corrected s.ecc.uncorrectable) := ofNat_counters _ _
    have h65 : mirrorWord s 65 = fieldWord [⟨0, 16, s.ecc.poisonReads.toNat⟩] := ofNat_single _ _
    have h67 : mirrorWord s 67 = fieldWord (portFaultFields s) := portFaultWord_eq s
    rw [h0, h64, h65, h67]
    refine ⟨?device, bitsOf_fieldWord rfl 1 rfl (loadOutcomeNat_lt _), bitsOf_fieldWord rfl 2 rfl s.failedChannel.isLt,
      ?cause, rfl, fun l => ⟨(mirrorWord_port s l).2.1, (mirrorWord_port s l).2.2.1⟩,
      bitsOf_fieldWord rfl 0 rfl s.ecc.corrected.isLt, bitsOf_fieldWord rfl 1 rfl s.ecc.uncorrectable.isLt,
      bitsOf_fieldWord rfl 0 rfl s.ecc.poisonReads.isLt, bitsOf_ueWord s, fun p => ?faults⟩
    case device =>
      rw [bitsOf_fieldWord rfl 0 rfl (deviceNat_lt s.device)]
      cases s.device <;> rfl
    case cause =>
      rw [bitsOf_fieldWord rfl 3 rfl (resetCauseNat_lt s.resetCause)]
      cases s.resetCause <;> rfl
    case faults =>
      cases p with
      | port0 => exact bitsOf_fieldWord rfl 0 rfl (s.port .port0).faultCount.isLt
      | port1 => exact bitsOf_fieldWord rfl 1 rfl (s.port .port1).faultCount.isLt
  case result =>
    rw [(mirrorWord_port s p).1, resultWord_eq]
    refine ⟨bitsOf_fieldWord rfl 0 rfl (bitsOf_lt _ _ _), bitsOf_fieldWord rfl 1 rfl (Nat.mod_lt _ (by decide)),
      bitsOf_fieldWord rfl 2 rfl (Nat.mod_lt _ (by decide)), bitsOf_fieldWord rfl 3 rfl (commandOutcomeNat_lt _),
      ?refused, ?code⟩
    case refused =>
      rw [bitsOf_fieldWord rfl 4 rfl (bitNat_lt _)]
      cases (s.command p).refused <;> rfl
    case code =>
      cases h : (s.command p).refused with
      | none => exact bitsOf_fieldWord rfl 5 (by rw [resultFields, h]; rfl) (by decide)
      | some code => exact bitsOf_fieldWord rfl 5 (by rw [resultFields, h]; rfl) code.isLt
  case globalFlags =>
    rw [(mirrorWord_port s l).2.2.2]
    exact bitsOf_globalFlagWord s l n
  case channelFlags =>
    rw [mirrorWord_channelFlag]
    exact bitsOf_channelFlagWord s c n
  case emptyPort =>
    rw [mirrorWord_portCapture]
    exact portCaptureWord_of_none hnone _
  case portCapture =>
    obtain ⟨hw0, hw1, hw2, hw3⟩ := mirrorWord_portCapture_words s p
    obtain ⟨h0, h1, h2, h3⟩ := portCaptureWord_of_some hr
    rw [hw0, hw1, hw2, hw3, h0, h1, h2, h3]
    exact ⟨bitsOf_fieldWord rfl 0 rfl r.addr.isLt, bitsOf_fieldWord rfl 1 rfl (bitNat_lt true),
      bitsOf_fieldWord rfl 0 rfl (bitNat_lt _), bitsOf_fieldWord rfl 1 rfl r.size.isLt, bitsOf_fieldWord rfl 2 rfl hburst,
      bitsOf_fieldWord rfl 3 rfl (bitNat_lt _), bitsOf_fieldWord rfl 4 rfl (faultNat_lt _), rfl,
      bitsOf_fieldWord rfl 0 rfl (s.port p).capture.overflow.isLt⟩
  case emptyMem =>
    rw [mirrorWord_memCapture]
    exact memCaptureWord_of_none hnone _
  case memCapture =>
    obtain ⟨hw0, hw1, hw2, hw3⟩ := mirrorWord_memCapture_words s
    obtain ⟨h0, h1, h2, h3⟩ := memCaptureWord_of_some hr
    rw [hw0, hw1, hw2, hw3, h0, h1, h2, h3]
    exact ⟨bitsOf_fieldWord rfl 0 rfl haddr, bitsOf_fieldWord rfl 1 rfl (bitNat_lt true),
      bitsOf_fieldWord rfl 0 rfl r.bank.isLt, bitsOf_fieldWord rfl 1 rfl (sourceNat_lt _), rfl,
      bitsOf_fieldWord rfl 0 rfl s.memCapture.overflow.isLt⟩
  case bank =>
    obtain ⟨h0, h1⟩ := mirrorWord_bankStatus s b
    rw [h0, h1, bankStatusWord_zero, bankStatusWord_one]
    refine ⟨bitsOf_fieldWord rfl 0 rfl (serviceNat_lt _), bitsOf_fieldWord rfl 1 rfl (s.bank b).retries.isLt,
      bitsOf_fieldWord rfl 2 rfl (bitNat_lt _), bitsOf_fieldWord rfl 3 rfl (causeNat_lt _), ?_⟩
    cases (s.bank b).cause <;> cases (s.bank b).faultTime <;> rfl
  case scrub =>
    have h0 : mirrorWord s 88 = scrubStatusWord s.scrub 0 := rfl
    have h1 : mirrorWord s 89 = scrubStatusWord s.scrub 1 := rfl
    have h2 : mirrorWord s 90 = fieldWord [⟨0, 16, s.scrub.passes.toNat⟩] := ofNat_single _ _
    rw [h0, h1, h2]
    refine ⟨?running, fun ph hph => ?phase, bitsOf_scrubPosition_mark s.scrub, fun a ha hlt => ?position,
      bitsOf_fieldWord rfl 0 rfl s.scrub.passes.isLt⟩
    case running =>
      rw [bitsOf_scrubRunning]
      cases s.scrub.state <;> rfl
    case phase =>
      rw [scrubStatusWord_running hph]
      exact bitsOf_fieldWord rfl 1 rfl (scrubPhaseNat_lt _)
    case position =>
      rw [scrubStatusWord_at ha]
      exact bitsOf_fieldWord rfl 0 rfl hlt
  case copy =>
    have h0 : mirrorWord s 92 = copyStatusWord s.copy 0 := rfl
    have h1 : mirrorWord s 93 = fieldWord (nibbleFields (queueEntryNat s.copy.queue)) := ofNat_nibbles _
    have h2 : mirrorWord s 94 = fieldWord (nibbleFields fun i => queueEntryNat s.copy.queue (8 + i)) :=
      ofNat_nibbles _
    rw [h0, h1, h2]
    refine ⟨?engine, ?length, bitsOf_copyStatus_noJob, fun j => bitsOf_copyStatus_job, fun i => ⟨?low, ?high⟩⟩
    case engine =>
      rw [copyStatusWord_zero]
      exact bitsOf_fieldWord rfl 0 rfl (engineStateNat_lt _)
    case length =>
      rw [copyStatusWord_zero]
      exact bitsOf_fieldWord rfl 5 rfl (Nat.lt_of_le_of_lt hlen (by decide))
    case low =>
      rw [bitsOf_nibble _ i (queueEntryNat_lt _ _)]
      rfl
    case high =>
      rw [bitsOf_nibble (fun i => queueEntryNat s.copy.queue (8 + i)) i (queueEntryNat_lt _ _)]
      rfl
  case noChannel => exact ⟨fun k => mirrorWord_noChannel k hnone, fun k => mirrorWord_noChannelTime k hnone⟩
  case channel =>
    refine ⟨fun k => mirrorWord_channel k hch, fun k => ?_⟩
    rw [mirrorWord_channelTime k hch]
    unfold channelTimeWord Channel.slot
    cases (ch.slots.get k).commitTime with
    | none => exact ite_self _
    | some t => rfl
  case channelState =>
    rw [channelStatusWord_zero]
    refine ⟨bitsOf_fieldWord rfl 0 rfl (by decide), bitsOf_fieldWord rfl 1 rfl (modeNat_lt _),
      bitsOf_fieldWord rfl 2 rfl hdepth, bitsOf_fieldWord rfl 3 rfl (channelStateNat_lt _), ?newest, ?held, ?filling,
      bitsOf_fieldWord rfl 7 rfl (channelCopyNat_lt _), bitsOf_fieldWord rfl 8 rfl hlen⟩
    case newest =>
      rw [bitsOf_fieldWord rfl 4 rfl (optSlotNat_lt ch.newest)]
      rfl
    case held =>
      rw [bitsOf_fieldWord rfl 5 rfl (heldNat_lt ch.held)]
      rfl
    case filling =>
      rw [bitsOf_fieldWord rfl 6 rfl (optSlotNat_lt ch.filling)]
      rfl
  case channelWords =>
    have h2 : channelStatusWord ch 2 = fieldWord (nibbleFields (committedEntryNat ch.committed)) := ofNat_nibbles _
    have h5 : channelStatusWord ch 5 = fieldWord (counterFields ch.dropped ch.lost) := ofNat_counters _ _
    have h6 : channelStatusWord ch 6 = fieldWord (counterFields ch.blocked ch.empty) := ofNat_counters _ _
    rw [h2, h5, h6, channelStatusWord_three]
    refine ⟨rfl, fun i => ?committed, fun n hcopy hlt => ?next, fun hcopy => ?noNext, ?timed, ?time,
      bitsOf_fieldWord rfl 0 rfl ch.dropped.isLt, bitsOf_fieldWord rfl 1 rfl ch.lost.isLt,
      bitsOf_fieldWord rfl 0 rfl ch.blocked.isLt, bitsOf_fieldWord rfl 1 rfl ch.empty.isLt, fun i hi => ?slot,
      fun i hi => ?noSlot⟩
    case committed =>
      rw [bitsOf_nibble _ i (committedEntryNat_lt _ _)]
      rfl
    case next =>
      refine bitsOf_fieldWord rfl 0 ?_ hlt
      rw [channelCopyFields, hcopy]
      rfl
    case noNext =>
      refine bitsOf_fieldWord rfl 0 ?_ (by decide)
      cases h : ch.copy with
      | none => rw [channelCopyFields, h]; rfl
      | queued => rw [channelCopyFields, h]; rfl
      | copying n => exact absurd h (hcopy n)
    case timed =>
      rw [bitsOf_fieldWord rfl 1 rfl (bitNat_lt _)]
      cases ch.lastCommit <;> rfl
    case time => rfl
    case slot =>
      refine ⟨bitsOf_slotField_part (a := 0) hi 0 rfl (slotStateNat_lt _) (by decide),
        bitsOf_slotField_part hi 1 rfl (bitNat_lt _) (by decide),
        bitsOf_slotField_part hi 2 rfl (bitNat_lt _) (by decide), ?_⟩
      rw [channelStatusWord_frame, if_pos hi]
      rfl
    case noSlot => exact ⟨(bitsOf_slotField ch i).trans (slotFieldNat_of_le hi),
      (channelStatusWord_frame ch i).trans (if_neg (Nat.not_lt.2 hi))⟩

end Sys2Proof.Proofs
end
